-- ==== Sys2Proof/Word.lean ====
section
/-! DEFINITION. The word types of the super-simd bit-plane core (BPC-1): bytes, bus words, planes, the
BitPlaneVector value and the 512-byte array (spec/00_scope.md R9, R13, R17; spec/10_state.md R20 to R23). -/

namespace Sys2Proof

/-- A byte: an unsigned 8-bit number (R17). -/
abbrev Byte := BitVec 8

/-- A command word, a control register or a value of the 32-bit host bus (R10). -/
abbrev Word := BitVec 32

/-- One plane: 512 bits, bit `i` belonging to element `i`. How a plane is cut into machine words is not
architectural and is not represented (R23). -/
abbrev Plane := BitVec 512

/-- A BitPlaneVector: exactly 8 planes of 512 bits, always jointly present (R20, R22). `X[b]` is the
spec's `X.P[b]` and `X[b].getLsbD i` its `X.P[b][i]` (R15). -/
abbrev BitPlaneVector := Vector Plane 8

/-- The vector of 8 zero planes, the spec's `Z` (R129) and the storage of every register after reset (R39). -/
def BitPlaneVector.zero : BitPlaneVector := Vector.replicate 8 0#512

/-- The source's byte array: a sequence of 512 bytes, by element index (R17, R54). It is a value passed
between operations, never a field of the state. -/
abbrev ByteArray512 := Fin 512 → Byte

end Sys2Proof
end

