-- ==== Sys2Proof/Syntax.lean ====
section
/-! DEFINITION. The commands of BPC-1 (one constructor per row of spec/opcode_table.json), their opcodes,
and the accesses a host makes on the bus (spec/30_encoding.md R81 to R83; spec/20_memory.md R51, R57). -/

namespace Sys2Proof

/-- The number of a vector register, V0 to V7 (R24). A 3-bit field names every one, so there is no
out-of-range operand (R82) and the type holds exactly the eight numbers. -/
abbrev VRegNum := Fin 8

/-- The number of a frame, F0 to F7 (R53). As with registers there is no out-of-range number (R82). -/
abbrev FrameNum := Fin 8

/-- The four commands (R83, R87). -/
inductive Instr where
  /-- `encode vD, fS` (R100). -/
  | encode (vd : VRegNum) (fs : FrameNum)
  /-- `decode fD, vS` (R103). -/
  | decode (fd : FrameNum) (vs : VRegNum)
  /-- `add vD, vA, vB` (R124). -/
  | add (vd va vb : VRegNum)
  /-- `add_assign vD, vB` (R125). -/
  | addAssign (vd vb : VRegNum)
  deriving DecidableEq, Repr

/-- The four opcodes that are not reserved (R83). -/
inductive Opcode where
  | encode
  | decode
  | add
  | addAssign
  deriving DecidableEq, Repr

/-- The opcode of a command (R83). -/
def Instr.opcode : Instr → Opcode
  | .encode _ _ => .encode
  | .decode _ _ => .decode
  | .add _ _ _ => .add
  | .addAssign _ _ => .addAssign

/-- One host bus access, at an offset from `BASE` (R51): a read or a write of 1, 2 or 4 bytes (R57).
The names `rd8`, `rd32`, `wr8`, `wr32` are those of R88. -/
inductive HostAccess where
  | rd8 (offset : Nat)
  | rd16 (offset : Nat)
  | rd32 (offset : Nat)
  | wr8 (offset : Nat) (value : BitVec 8)
  | wr16 (offset : Nat) (value : BitVec 16)
  | wr32 (offset : Nat) (value : BitVec 32)
  deriving DecidableEq, Repr

/-- The window offset an access names. -/
def HostAccess.offset : HostAccess → Nat
  | .rd8 o => o
  | .rd16 o => o
  | .rd32 o => o
  | .wr8 o _ => o
  | .wr16 o _ => o
  | .wr32 o _ => o

/-- How many bytes an access moves (R55, R57). -/
def HostAccess.width : HostAccess → Nat
  | .rd8 _ => 1
  | .rd16 _ => 2
  | .rd32 _ => 4
  | .wr8 _ _ => 1
  | .wr16 _ _ => 2
  | .wr32 _ _ => 4

/-- The value a write drives on the bus, in the low bits of the 32-bit data bus; `none` for a read. -/
def HostAccess.written : HostAccess → Option Word
  | .rd8 _ => none
  | .rd16 _ => none
  | .rd32 _ => none
  | .wr8 _ v => some (v.setWidth 32)
  | .wr16 _ v => some (v.setWidth 32)
  | .wr32 _ v => some v

end Sys2Proof
end

