-- ==== Sys2Proof/Config.lean ====
section
/-! DEFINITION. What the spec leaves open and a model takes as parameters (spec/00_scope.md R11), and the
free values of the machine (spec/10_state.md R39). None of them has a body: nothing can be proved of a value
but that there is one. -/

namespace Sys2Proof

/-- FREE VALUE (log 3). The byte that buffer address `addr` holds after the reset numbered `epoch`, before
anything is written there: "any byte value at each address, independently" (R39). -/
opaque Config.resetByte : (epoch addr : Nat) → Byte

/-- PARAMETER (log 6). `BASE`, the host address of the block's window (R11, R50). -/
opaque Config.base : Nat

/-- PARAMETER (log 7). One less than the latency of an opcode, see `Config.latency`. -/
opaque Config.latencyPred : Opcode → Nat

/-- `LAT_ENCODE`, `LAT_DECODE`, `LAT_ADD`, `LAT_ADD_ASSIGN`: the clock cycles from issue to completion, a
finite constant of at least 1 that depends on the opcode only (R11, R175, R176). The model has no time and no
rule of its behaviour depends on them (R179). -/
def Config.latency (op : Opcode) : Nat := Config.latencyPred op + 1

end Sys2Proof
end

