-- ==== Sys2Proof/WellFormed.lean ====
section
/-! DEFINITION. When a command word, and a host access, is well formed, as the spec's tables say it
(spec/30_encoding.md R84; spec/20_memory.md R51, R57, R58). A value of type `Instr` is well formed by its
type: every field value names an existing register or frame (R82). The decoder (Decode.lean) and the bus
(Machine/Bus.lean) make their own checks, in the spec's order; statements hold them against these. -/

namespace Sys2Proof

/-- A row of the table of exact patterns: a word is the row's command exactly when
`(w AND mask) = pattern` (R84). -/
structure PatternRow where
  mask : Word
  pattern : Word
  deriving DecidableEq, Repr

/-- The table of R84. -/
def patternRow : Opcode → PatternRow
  | .encode => { mask := 0xFFFFF03F#32, pattern := 0x00001000#32 }
  | .decode => { mask := 0xFFFFF03F#32, pattern := 0x00002000#32 }
  | .add => { mask := 0xFFFFF007#32, pattern := 0x00003000#32 }
  | .addAssign => { mask := 0xFFFFF03F#32, pattern := 0x00004000#32 }

/-- The test of R84 for one row. -/
def PatternRow.matchesWord (r : PatternRow) (w : Word) : Bool := (w &&& r.mask) == r.pattern

/-- A well-formed command word: one that matches a row of R84. -/
def wellFormedWord (w : Word) : Bool :=
  [Opcode.encode, Opcode.decode, Opcode.add, Opcode.addAssign].any fun op => (patternRow op).matchesWord w

/-- The access lies in the block's window of `0x2000` bytes (R50, R51). -/
def HostAccess.inWindow (a : HostAccess) : Bool := a.offset + a.width ≤ 0x2000

/-- The access is at a multiple of its width (R58). -/
def HostAccess.aligned (a : HostAccess) : Bool := a.offset % a.width == 0

/-- A control register is accessed with 4 bytes only (R57). -/
def HostAccess.wideEnough (a : HostAccess) : Bool := decide (0x10 ≤ a.offset) || a.width == 4

/-- A host access the block answers without a bus error (R57, R58) and that lies in the window (R51). -/
def HostAccess.wellFormed (a : HostAccess) : Bool := a.inWindow && a.aligned && a.wideEnough

end Sys2Proof
end

