-- ==== Sys2Proof/Decode.lean ====
section
/-! DEFINITION. The command decoder, total over all 2^32 words and rejecting by name, and after it the
encoder (spec/30_encoding.md R80 to R87), with the little-endian byte lanes of the bus
(spec/20_memory.md R55). -/

namespace Sys2Proof

/-- The number held in the bytes of an `n`-byte bus access, first byte at the lowest offset: the byte at
offset `o + j` is bits `[8j+7:8j]` (R55). -/
def busValue : List Byte → Word
  | [] => 0#32
  | b :: bs => b.setWidth 32 ||| (busValue bs <<< 8)

/-- The `n` bytes of a bus value, the byte for the lowest offset first (R55). -/
def busBytes : Nat → Word → List Byte
  | 0, _ => []
  | n + 1, v => v.setWidth 8 :: busBytes n (v >>> 8)

/-- The fields of a command word (R81). -/
structure CmdFields where
  rsvHi : BitVec 16
  op : BitVec 4
  d : BitVec 3
  s1 : BitVec 3
  s2 : BitVec 3
  rsvLo : BitVec 3
  deriving DecidableEq, Repr

/-- The bit ranges of R80 and R81. -/
def CmdFields.ofWord (w : Word) : CmdFields :=
  { rsvHi := w.extractLsb' 16 16
    op := w.extractLsb' 12 4
    d := w.extractLsb' 9 3
    s1 := w.extractLsb' 6 3
    s2 := w.extractLsb' 3 3
    rsvLo := w.extractLsb' 0 3 }

/-- Why a word is no command (R85). -/
inductive DecodeError where
  /-- `OP` is `0x0` or `0x5` to `0xF` (R85, kind 1). -/
  | illegalOpcode
  /-- A must-be-zero field is not zero (R85, kind 2). -/
  | reservedBits
  deriving DecidableEq, Repr

/-- The opcode map (R83): `none` for the reserved opcodes. -/
def opcodeOf (op : BitVec 4) : Option Opcode :=
  if op = 0x1#4 then some .encode
  else if op = 0x2#4 then some .decode
  else if op = 0x3#4 then some .add
  else if op = 0x4#4 then some .addAssign
  else none

/-- A must-be-zero field is not zero: `RSV_HI`, `RSV_LO`, or `S2` for an opcode other than ADD (R85, R86). -/
def reservedFieldSet (op : Opcode) (f : CmdFields) : Bool :=
  f.rsvHi != 0#16 || f.rsvLo != 0#3 || (op != .add && f.s2 != 0#3)

/-- Operand assembly: each of `D`, `S1`, `S2` is read as an unsigned number 0 to 7 (R82), in the places
R81 gives it for the opcode. -/
def assembleOperands (op : Opcode) (f : CmdFields) : Instr :=
  match op with
  | .encode => .encode f.d.toFin f.s1.toFin
  | .decode => .decode f.d.toFin f.s1.toFin
  | .add => .add f.d.toFin f.s1.toFin f.s2.toFin
  | .addAssign => .addAssign f.d.toFin f.s1.toFin

/-- The decoding function, the opcode tested before the reserved bits (R86). -/
def decodeWord (w : Word) : Except DecodeError Instr :=
  let f := CmdFields.ofWord w
  match opcodeOf f.op with
  | none => .error .illegalOpcode
  | some op => if reservedFieldSet op f then .error .reservedBits else .ok (assembleOperands op f)

/-- A 3-bit field value placed at bit `at`. -/
def fieldAt (k : Fin 8) (lo : Nat) : Word := BitVec.ofNat 32 k.val <<< lo

/-- The word of a command, by the formulas of R87. -/
def encode : Instr → Word
  | .encode vd fs => 0x00001000#32 ||| fieldAt vd 9 ||| fieldAt fs 6
  | .decode fd vs => 0x00002000#32 ||| fieldAt fd 9 ||| fieldAt vs 6
  | .add vd va vb => 0x00003000#32 ||| fieldAt vd 9 ||| fieldAt va 6 ||| fieldAt vb 3
  | .addAssign vd vb => 0x00004000#32 ||| fieldAt vd 9 ||| fieldAt vb 6

/-- The command in four bytes as the host's 32-bit write lays them on the byte lanes (R55); any other
number of bytes is no command, there is no other length (R80). -/
def decodeBytes (bs : List Byte) : Option Instr :=
  if bs.length = 4 then (decodeWord (busValue bs)).toOption else none

/-- The command the decoder reads from the word whose low `nbits` bits are `w` and whose other bits are 0.
A command is one 32-bit word (R80); it is laid out in bytes as the bus carries it (R55). -/
def decodeTableWord (nbits w : Nat) : Option Instr :=
  decodeBytes (busBytes 4 (BitVec.ofNat 32 (w % 2 ^ nbits)))

end Sys2Proof
end

