-- ==== Sys2Proof/Machine/State.lean ====
section
/-! DEFINITION. The state of the machine, plain data: everything the spec gives the block
(spec/10_state.md R24 to R39; spec/20_memory.md R53), then the inputs and outputs of its host and platform
(R12), then the model's own bookkeeping. And the reasons a step can stop. -/

namespace Sys2Proof.Machine

/-- A vector register: its valid bit and its storage (R25). With `valid` false the register holds no value;
the storage bits exist all the same and are 0 (R39). -/
structure VReg where
  valid : Bool
  planes : BitPlaneVector
  deriving DecidableEq, Repr

/-- A register no command has written since the last reset (R39). -/
def VReg.empty : VReg := { valid := false, planes := BitPlaneVector.zero }

/-- The value of `STATUS.CAUSE` (R141). Codes 4 to 15 are never produced, so they are no constructors. -/
inductive FaultCause where
  /-- Code 0: no fault recorded. -/
  | noFault
  /-- Code 1: a reserved opcode. -/
  | illegalOpcode
  /-- Code 2: a must-be-zero field that is not zero. -/
  | reservedBits
  /-- Code 3: a vector register the command reads has `VALID = 0`. -/
  | unwrittenVreg
  deriving DecidableEq, Repr

/-- One fault entry, as the ghost record keeps it (D12, log 4). -/
structure FaultRecord where
  cause : FaultCause
  word : Word
  deriving DecidableEq, Repr

/-- What the frame buffer holds: the bytes written since the last reset, by buffer address, in one
canonical form (`Memory.wf`). An unlisted address has no written value: `State.bufByte` reads it as the free
byte of R39 (log 3). -/
abbrev Memory := List Host.Cell

/-- The canonical form: addresses strictly rising, and all of them buffer addresses 0 to 4095 (R50). -/
abbrev Memory.wf (m : Memory) : Prop := m.Pairwise (fun c d => c.1 < d.1) ∧ ∀ c ∈ m, c.1 < 4096

/-- Who moves at a step, or the platform's reset (R12, R170). The list of these in the state is an
unconstrained input (log 2). -/
inductive Turn where
  /-- The host moves, if its access is not held. -/
  | host
  /-- The block completes the command in flight, if there is one. -/
  | block
  /-- The platform asserts reset (R170). `accessMade` says whether the host had put its next access on the bus
  by then: R171 speaks of an access held when reset is asserted, and no rule says when a host makes its access.
  So it is part of the unconstrained input, like the order of moves (logs 2 and 8). -/
  | reset (accessMade : Bool)
  deriving DecidableEq, Repr

/-- What the host's bus receives for one access. -/
inductive BusResponse where
  /-- The data of a read, in the low bits of the bus (R55). -/
  | data (value : Word)
  /-- A write has been taken. -/
  | written
  /-- The access was held when reset was asserted: what the host receives is the platform's, and no value
  is given to it (R171, log 8). -/
  | platformDefined
  deriving DecidableEq, Repr

/-- The machine's state. -/
structure State where
  /-- V0 to V7 with their valid bits (R24, R25). -/
  vregs : Vector VReg 8
  /-- The command in flight: the word held between issue and completion (R36, R174). `STATUS.BUSY` is 1
  exactly while there is one (R33). -/
  inFlight : Option Word
  /-- `STATUS.FAULT` (R33). -/
  fault : Bool
  /-- `STATUS.CAUSE` (R33, R141). -/
  cause : FaultCause
  /-- FAULTCMD (R34). -/
  faultCmd : Word
  /-- The frame buffer's written bytes (R53). -/
  buf : Memory
  /-- MODEL'S OWN (log 3): how many resets the platform has asserted. -/
  drawEpoch : Nat
  /-- MODEL'S OWN (log 4): every fault entry so far, newest first, never erased (D12). -/
  faultLog : List FaultRecord
  /-- INPUT (log 1): the accesses the host has still to make, in its program order (R12, R62). -/
  script : List HostAccess
  /-- INPUT (log 2): who moves next (R12, R179), and where reset is asserted (R170). -/
  turns : List Turn
  /-- OUTPUT (log 1): what the host has received so far, oldest first. -/
  responses : List BusResponse
  deriving DecidableEq, Repr

/-- Why the machine stops. No rule of the spec stops the block: its faults are fault entries, after which it
goes on (R143, R145). -/
inductive Fault where
  /-- Raised by the completion step when the word in flight is no command. No run from reset reaches it,
  since only a checked word is put in flight (R142, R174). Safe: the model stops, it invents no effect. -/
  | inFlightNotACommand
  deriving DecidableEq, Repr

/-- Why the model gives a host program no meaning. No command is refused. -/
inductive Refusal where
  /-- Raised by no meaning and by no arm: the name of an arm that would still have no meaning. Safe. -/
  | notModelled (mnemonic : String)
  /-- Raised by a host access at an offset that is no multiple of its width: a bus error, after which the
  host does what the platform says; "a model refuses a host program that makes such an access" (R58). Safe. -/
  | misalignedAccess
  /-- Raised by a host access of 1 or 2 bytes to an offset below `0x10`: the same bus error (R57, R58). Safe. -/
  | narrowControlAccess
  /-- Raised by a host access outside the block's window: the block does not respond, and what the platform
  does with it is outside the spec (R51). Safe. -/
  | outsideWindow
  deriving DecidableEq, Repr

/-- The state right after reset (R39): no register holds a value and all their storage is 0, nothing is in
flight, no fault is recorded, FAULTCMD is 0, and no frame byte is written. The last five fields are the
model's own and start empty (logs 1 to 4). -/
def State.reset : State :=
  { vregs := Vector.replicate 8 VReg.empty
    inFlight := none
    fault := false
    cause := .noFault
    faultCmd := 0x00000000#32
    buf := []
    drawEpoch := 0
    faultLog := []
    script := []
    turns := []
    responses := [] }

end Sys2Proof.Machine
end

