-- ==== Sys2Proof/Machine/Ops.lean ====
section
/-! DEFINITION. The named operations over the frame buffer, the vector registers and the command lifecycle:
reading and writing bytes, taking a fault and clearing it, issuing and retiring a command
(spec/00_scope.md R16; spec/60_exceptions.md R142 to R146; spec/70_reset_and_hazards.md R174). -/

namespace Sys2Proof.Machine

/-! ### The frame buffer -/

/-- The cells of consecutive addresses from `a` upward. -/
def cellsFrom (a : Nat) : List Byte → Memory
  | [] => []
  | b :: bs => (a, b) :: cellsFrom (a + 1) bs

/-- `MemWrite(a, n, s)`: the bytes `bs` at addresses `a` upward, all other addresses as before (R16). -/
def Memory.writeRange (m : Memory) (a : Nat) (bs : List Byte) : Memory :=
  m.filter (fun c => decide (c.1 < a)) ++ cellsFrom a bs ++ m.filter (fun c => decide (a + bs.length ≤ c.1))

/-- The byte of the frame buffer at address `a`: the one last written there since reset, else the free byte
of R39 (R62, log 3). -/
def State.bufByte (s : State) (a : Nat) : Byte :=
  (s.buf.lookup a).getD (Config.resetByte s.drawEpoch a)

/-- The `n` bytes from address `a` upward. -/
def State.bufBytes (s : State) (a : Nat) : (n : Nat) → List Byte
  | 0 => []
  | n + 1 => s.bufByte a :: s.bufBytes (a + 1) n

/-- Bytes written to the frame buffer from address `a` upward (R16). -/
def State.writeBuf (s : State) (a : Nat) (bs : List Byte) : State :=
  { s with buf := s.buf.writeRange a bs }

/-! ### The vector registers -/

/-- The valid bit `VALID[k]` (R25). -/
def State.isValid (s : State) (k : VRegNum) : Bool := s.vregs[k].valid

/-- `V[k]` read whole (R16, R22). Commands read it only with `VALID[k] = 1`, which is tested at issue. -/
def State.readV (s : State) (k : VRegNum) : BitPlaneVector := s.vregs[k].planes

/-- `V[k] <- X; VALID[k] <- 1`: the value is replaced whole, no other register changes (R22, R26, R27). -/
def State.writeV (s : State) (k : VRegNum) (X : BitPlaneVector) : State :=
  { s with vregs := s.vregs.set k { valid := true, planes := X } }

/-! ### Faults -/

/-- Fault entry (R143): three fields change, and the ghost record grows (D12, log 4). There is no vector, no
saved program counter and no mode. -/
def State.enterFault (s : State) (c : FaultCause) (w : Word) : State :=
  { s with fault := true, cause := c, faultCmd := w, faultLog := { cause := c, word := w } :: s.faultLog }

/-- Fault exit (R146): `FAULT` and `CAUSE` are cleared; FAULTCMD stays. -/
def State.clearFault (s : State) : State :=
  { s with fault := false, cause := .noFault }

/-! ### The command lifecycle -/

/-- `STATUS.BUSY`: a command has been issued and has not completed (R33, R36). -/
def State.busy (s : State) : Bool := s.inFlight.isSome

/-- The second half of issue: `BUSY <- 1` and the word is held as the command in flight (R174). -/
def State.putInFlight (s : State) (w : Word) : State := { s with inFlight := some w }

/-- `BUSY <- 0` at completion (R174). -/
def State.retire (s : State) : State := { s with inFlight := none }

/-- A command write while a fault is recorded is discarded: not checked, not issued, no state changed
(R145). Otherwise `checked` is what the write does. -/
def unlessFaulted (s : State) (checked : State) : State := if s.fault then s else checked

/-- Issue of a legal command `w` that reads the vector registers `srcs`: the third check of R142, then
`BUSY <- 1` (R174). The first two checks are the decoder's. -/
def State.issue (s : State) (w : Word) (srcs : List VRegNum) : State :=
  unlessFaulted s (if srcs.all s.isValid then s.putInFlight w else s.enterFault .unwrittenVreg w)

/-- The write of a word that is no command (R142 checks 1 and 2, R143). -/
def State.rejectWord (s : State) (e : DecodeError) (w : Word) : State :=
  unlessFaulted s <| s.enterFault (match e with | .illegalOpcode => .illegalOpcode | .reservedBits => .reservedBits) w

/-- The two steps of a command with word `w`, source registers `srcs` and effect `effect` (R174, log 5). Where no
command is in flight this is the issue of `w`. Where `w` itself is in flight it is its completion: all effects
at one moment, computed from the state at that moment, and `BUSY <- 0`. Where another command is in flight, the
write of `w` is held and nothing happens (R61). -/
def lifecycle (w : Word) (srcs : List VRegNum) (effect : State → State) (s : State) :
    Host.Outcome State Fault Refusal :=
  match s.inFlight with
  | none => .next (s.issue w srcs)
  | some f => if f = w then .next (effect s).retire else .next s

end Sys2Proof.Machine
end

