-- ==== Sys2Proof/Machine/Operands.lean ====
section
/-! DEFINITION. The operand forms: a frame read or written whole, and which vector registers a command
reads (spec/20_memory.md R53, R54, R59; spec/10_state.md R26). A vector register operand is `State.readV`
and `State.writeV` of Ops.lean. There are no immediates (spec/30_encoding.md R82). -/

namespace Sys2Proof.Machine

/-- The buffer address of element `i` of frame `f` (R53, R54). -/
def frameAddr (f : FrameNum) (i : Nat) : Nat := 512 * f.val + i

/-- `MemRead(512·f, 512)`: the array held in frame `f` (R54, R100). -/
def State.readFrame (s : State) (f : FrameNum) : ByteArray512 := fun i => s.bufByte (frameAddr f i.val)

/-- The 512 bytes of an array, element 0 first. -/
def arrayBytes (y : ByteArray512) : List Byte := List.ofFn y

/-- `MemWrite(512·f, 512, y)`: all 512 bytes of frame `f`, in one access (R59, R103). -/
def State.writeFrame (s : State) (f : FrameNum) (y : ByteArray512) : State :=
  s.writeBuf (frameAddr f 0) (arrayBytes y)

/-- The vector registers a command reads, tested for `VALID` at issue (R26, R141). -/
def sourceRegs : Instr → List VRegNum
  | .encode _ _ => []
  | .decode _ vs => [vs]
  | .add _ va vb => [va, vb]
  | .addAssign vd vb => [vd, vb]

end Sys2Proof.Machine
end

