-- ==== Sys2Proof/Machine/Flags.lean ====
section
/-! DEFINITION. The status word. The block has no flags, condition codes or predicates, and the adder
reports no carry and no overflow (spec/10_state.md R30); what it reports stands in STATUS
(spec/10_state.md R33; spec/60_exceptions.md R141). -/

namespace Sys2Proof.Machine

/-- The code of a fault cause in `STATUS.CAUSE` (R141). -/
def FaultCause.code : FaultCause → BitVec 4
  | .noFault => 0#4
  | .illegalOpcode => 1#4
  | .reservedBits => 2#4
  | .unwrittenVreg => 3#4

/-- The eight valid bits, bit `k` being `VALID[k]` (R33). -/
def State.validBits (s : State) : BitVec 8 := BitVec.ofFnLE s.isValid

/-- The value a read of STATUS returns: `VALID` in bits 15 to 8, `CAUSE` in 7 to 4, `FAULT` in 1, `BUSY` in 0,
the reserved bits 0 (R33). -/
def State.status (s : State) : Word :=
  0#16 ++ s.validBits ++ s.cause.code ++ 0#2 ++ BitVec.ofBool s.fault ++ BitVec.ofBool s.busy

end Sys2Proof.Machine
end

