-- ==== Sys2Proof/Machine/Adder.lean ====
section
/-! DEFINITION. The parallel adder and its commands ADD and ADD_ASSIGN (spec/41_adder.md R120 to R131). -/

namespace Sys2Proof.Machine

/-- The scratch plane `carry[b]` of R120. It is not architectural (R36): a value inside one addition. The
last one, `carry[7]`, is part of no result (R122). -/
def carryPlane (A B : BitPlaneVector) : (b : Nat) → b < 8 → Plane
  | 0, _ => A[0] &&& B[0]
  | b + 1, _ =>
    (A[b + 1] &&& B[b + 1]) ||| (A[b + 1] &&& carryPlane A B b (by omega))
      ||| (B[b + 1] &&& carryPlane A B b (by omega))

/-- The plane `S.P[b]` of R120. -/
def sumPlane (A B : BitPlaneVector) : (b : Nat) → b < 8 → Plane
  | 0, _ => A[0] ^^^ B[0]
  | b + 1, _ => A[b + 1] ^^^ B[b + 1] ^^^ carryPlane A B b (by omega)

/-- `AddPlanes(A, B)` (R120). -/
def addPlanes (A B : BitPlaneVector) : BitPlaneVector := Vector.ofFn fun b => sumPlane A B b.val b.isLt

/-- ADD (R124): `V[vd] <- AddPlanes(V[va], V[vb])`, both sources read in full before the write (R127). -/
def execAdd (vd va vb : VRegNum) (s : State) : Host.Outcome State Fault Refusal :=
  lifecycle (encode (.add vd va vb)) (sourceRegs (.add vd va vb))
    (fun s => s.writeV vd (addPlanes (s.readV va) (s.readV vb))) s

/-- ADD_ASSIGN (R125): `V[vd] <- AddPlanes(V[vd], V[vb])`, both operands read in full before the write. -/
def execAddAssign (vd vb : VRegNum) (s : State) : Host.Outcome State Fault Refusal :=
  lifecycle (encode (.addAssign vd vb)) (sourceRegs (.addAssign vd vb))
    (fun s => s.writeV vd (addPlanes (s.readV vd) (s.readV vb))) s

end Sys2Proof.Machine
end

