-- ==== Sys2Proof/Machine/Transpose.lean ====
section
/-! DEFINITION. The transpose commands ENCODE and DECODE (spec/40_encode_decode.md R100 to R107). -/

namespace Sys2Proof.Machine

/-- The encoder: `Y.P[b][i] = (x[i] >> b) & 1` (R100). The method is not observable (R101). -/
def encodePlanes (x : ByteArray512) : BitPlaneVector :=
  Vector.ofFn fun b => BitVec.ofFnLE fun i => (x i).getLsbD b.val

/-- The decoder: `y[i] = Σ_{b=0}^{7} X.P[b][i] · 2^b` (R103). -/
def decodePlanes (X : BitPlaneVector) : ByteArray512 := fun i =>
  BitVec.ofNat 8 ((List.finRange 8).map fun b => (X[b].getLsbD i.val).toNat * 2 ^ b.val).sum

/-- ENCODE (R100): reads frame `fs`, writes `V[vd]` and sets `VALID[vd]`. -/
def execEncode (vd : VRegNum) (fs : FrameNum) (s : State) : Host.Outcome State Fault Refusal :=
  lifecycle (encode (.encode vd fs)) (sourceRegs (.encode vd fs))
    (fun s => s.writeV vd (encodePlanes (s.readFrame fs))) s

/-- DECODE (R103): reads `V[vs]`, writes all 512 bytes of frame `fd`. -/
def execDecode (fd : FrameNum) (vs : VRegNum) (s : State) : Host.Outcome State Fault Refusal :=
  lifecycle (encode (.decode fd vs)) (sourceRegs (.decode fd vs))
    (fun s => s.writeFrame fd (decodePlanes (s.readV vs))) s

end Sys2Proof.Machine
end

