-- ==== Sys2Proof/Machine/Dispatch.lean ====
section
/-! DEFINITION. One arm per command, each one direct call of its meaning (spec/30_encoding.md R83). -/

namespace Sys2Proof.Machine

def exec (i : Instr) (s : State) : Host.Outcome State Fault Refusal :=
  match i with
  | .encode vd fs => Sys2Proof.Machine.execEncode vd fs s
  | .decode fd vs => Sys2Proof.Machine.execDecode fd vs s
  | .add vd va vb => Sys2Proof.Machine.execAdd vd va vb s
  | .addAssign vd vb => Sys2Proof.Machine.execAddAssign vd vb s

end Sys2Proof.Machine
end

