-- ==== Sys2Proof/Machine/Bus.lean ====
section
/-! DEFINITION. The host's accesses to the window, the interlock, the completion step, the reset input, and
who moves (spec/20_memory.md R50 to R61; spec/60_exceptions.md R142, R145, R146; spec/70_reset_and_hazards.md
R170 to R178). -/

namespace Sys2Proof.Machine

/-! ### The window -/

/-- The window offset of a host address, for a window at `base`: `none` outside `base` to `base + 0x1FFF`
(R50, R51). -/
def windowOffset (base addr : Nat) : Option Nat :=
  if base ≤ addr ∧ addr < base + 0x2000 then some (addr - base) else none

/-- The window offset of a host address on this machine (R11, log 6). -/
def hostAddressOffset (addr : Nat) : Option Nat := windowOffset Config.base addr

/-- Why the model refuses a host access, if it does: outside the window, or a bus error (R51, R57, R58,
log 9). -/
def HostAccess.refusal (a : HostAccess) : Option Refusal :=
  if 0x2000 ≤ a.offset then some .outsideWindow
  else if a.offset % a.width ≠ 0 then some .misalignedAccess
  else if a.offset < 0x10 ∧ a.width ≠ 4 then some .narrowControlAccess
  else none

/-- The accesses the interlock holds while `BUSY = 1`: a write to CMD, a write to CTRL, any access to a
frame-buffer offset `0x1000` to `0x1FFF` (R61). DESIGN CHOICE (log 9): an access that the model refuses is never
held; it is refused when the host makes it, `BUSY` or not, and no reset takes it away (R58). -/
def HostAccess.heldWhileBusy (a : HostAccess) : Bool :=
  (HostAccess.refusal a).isNone
    && ((a.written.isSome && (a.offset == 0x0 || a.offset == 0xC)) || decide (0x1000 ≤ a.offset))

/-- What a read of `n` bytes at offset `o` returns (R31 to R35, R51, R52, R55). It changes nothing (R60). -/
def busRead (s : State) (o n : Nat) : Word :=
  if o = 0x0 then 0#32
  else if o = 0x4 then s.status
  else if o = 0x8 then s.faultCmd
  else if o = 0xC then 0#32
  else if o < 0x1000 then 0#32
  else busValue (s.bufBytes (o - 0x1000) n)

/-- A word written to CMD with no command in flight (R32, R142, R174): the decoder's checks, then the
command's own issue. A word that is no command takes the fault entry, or is discarded (R143, R145). -/
def commandWrite (w : Word) (s : State) : Host.Outcome State Fault Refusal :=
  match decodeWord w with
  | .ok i => exec i s
  | .error e => .next (s.rejectWord e w)

/-- A word written to CTRL: bit 0, `FCLR`, clears the fault; the other bits are ignored (R35, R146). -/
def ctrlWrite (w : Word) (s : State) : State := if w.getLsbD 0 then s.clearFault else s

/-- A write of the `n`-byte value `v` at offset `o` (R31 to R35, R51, R52, R55). -/
def busWrite (s : State) (o n : Nat) (v : Word) : Host.Outcome State Fault Refusal :=
  if o = 0x0 then commandWrite v s
  else if o = 0xC then .next (ctrlWrite v s)
  else if o < 0x1000 then .next s
  else .next (s.writeBuf (o - 0x1000) (busBytes n v))

/-! ### The moves -/

/-- The host receives `r`. -/
def State.respond (s : State) (r : BusResponse) : State := { s with responses := s.responses ++ [r] }

/-- The host's next access leaves the script. -/
def State.popAccess (s : State) : State := { s with script := s.script.tail }

/-- One turn is used up. -/
def State.popTurn (s : State) : State := { s with turns := s.turns.tail }

/-- A host access that is not held takes effect (R60, R62), or the model refuses the program (R58, R51). -/
def performAccess (a : HostAccess) (s : State) : Host.Outcome State Fault Refusal :=
  match HostAccess.refusal a with
  | some r => .refused r
  | none =>
    match a.written with
    | none => .next (s.respond (.data (busRead s a.offset a.width)))
    | some v => busWrite (s.respond .written) a.offset a.width v

/-- The interlock holds the host's next access, or will if the host makes it now (R61). When the host makes it
is open: the turn of a reset says whether it had (log 8). -/
def State.hostHeld (s : State) : Bool :=
  s.busy && (match s.script with | [] => false | a :: _ => HostAccess.heldWhileBusy a)

/-- The host has an access to make and it is not held (R61). -/
def State.hostEnabled (s : State) : Bool := !s.script.isEmpty && !s.hostHeld

/-- The host's move: its next access, in program order (R62). -/
def hostMove (s : State) : Host.Outcome State Fault Refusal :=
  match s.script with
  | [] => .next s
  | a :: _ => performAccess a s.popAccess

/-- The block's move: the completion of the command in flight (R174, R175). -/
def blockMove (s : State) : Host.Outcome State Fault Refusal :=
  match s.inFlight with
  | none => .next s
  | some w =>
    match decodeWord w with
    | .ok i => exec i s
    | .error _ => .fault .inFlightNotACommand

/-- Reset asserted by the platform (R170, R171): every piece of the block's state takes its value of R39, with
a fresh draw of the frame buffer's bytes; the command in flight is abandoned. A host access that was made and is
held completes with no effect on the block and with the platform's response; one not yet made stays to come, as
do the host's later accesses and the turns (log 8). The ghost record stays (log 4). -/
def platformReset (accessMade : Bool) (s : State) : State :=
  { State.reset with
    drawEpoch := s.drawEpoch + 1
    faultLog := s.faultLog
    script := if accessMade && s.hostHeld then s.script.tail else s.script
    turns := s.turns
    responses := if accessMade && s.hostHeld then s.responses ++ [.platformDefined] else s.responses }

/-- The next turn is a reset (R170). -/
def State.resetTurn (s : State) : Bool :=
  match s.turns.head? with
  | some (.reset _) => true
  | _ => false

/-- Who moves. -/
inductive Mover where
  | host
  | block
  | reset (accessMade : Bool)
  | idle
  deriving DecidableEq, Repr

/-- The completion step is enabled whenever a command is in flight (R175); the host's, whenever its access is
not held (R61). Where both are, the turn chooses, and the block moves if there is no turn left (R179, log 2).
Where neither is, the block idles (R154). -/
def State.mover (s : State) : Mover :=
  match s.turns.head? with
  | some (.reset accessMade) => .reset accessMade
  | some .host => if s.hostEnabled then .host else if s.busy then .block else .idle
  | _ => if s.busy then .block else if s.hostEnabled then .host else .idle

/-- One move of the machine. -/
def move (s : State) : Host.Outcome State Fault Refusal :=
  match s.mover with
  | .host => hostMove s.popTurn
  | .block => blockMove s.popTurn
  | .reset accessMade => .next (platformReset accessMade s.popTurn)
  | .idle => .next s.popTurn

end Sys2Proof.Machine
end

