-- ==== Sys2Proof/Machine/Step.lean ====
section
/-! DEFINITION. One step of the machine, and the placing of a command as the host's next write. -/

namespace Sys2Proof.Machine

/-- One step: one agent's move, or the platform's reset (spec/00_scope.md R12). -/
def step (s : State) : Host.Outcome State Fault Refusal := move s

/-- The machine fetches nothing (spec/10_state.md R29, R66): a command reaches it as a 32-bit write to CMD. So
the word is placed as the host's next access, with no command in flight, no fault recorded and no turn
pending, which is what it takes for the very next step to check and issue it (log 10). -/
def State.withFetchWord (s : State) (nbits w : Nat) : State :=
  { s with
    inFlight := none
    fault := false
    cause := .noFault
    script := .wr32 0x0 (BitVec.ofNat 32 (w % 2 ^ nbits)) :: s.script
    turns := [] }

end Sys2Proof.Machine
end

