-- ==== Sys2Proof/Machine/HostLines.lean ====
section
/-! DEFINITION. The lines of a host program and the accesses they stand for (spec/30_encoding.md R88), and the
placing of a host program as the machine's input. A line's result has no name here: it is the response its
accesses get, in order. -/

namespace Sys2Proof.Machine

/-- A host line (R88). `fill` carries the array it writes. -/
inductive HostLine where
  /-- A command: one 32-bit write to CMD (R87). -/
  | cmd (i : Instr)
  /-- `.word N`: the number `N` written to CMD as it stands (R87). -/
  | word (n : Word)
  /-- `wr32 O, N`. -/
  | wr32 (offset : Nat) (n : Word)
  /-- `rd32 O -> x`. -/
  | rd32 (offset : Nat)
  /-- `wr8 O, N`. -/
  | wr8 (offset : Nat) (n : Byte)
  /-- `rd8 O -> x`. -/
  | rd8 (offset : Nat)
  /-- `fill fN, a`. -/
  | fill (f : FrameNum) (a : Vector Byte 512)
  /-- `dump fN -> a`. -/
  | dump (f : FrameNum)
  /-- `fclr`. -/
  | fclr
  /-- `status -> x`. -/
  | status
  deriving DecidableEq, Repr

/-- The window offset of the `q`-th word of frame `f` (R53, R88). -/
def frameWordOffset (f : FrameNum) (q : Nat) : Nat := 0x1000 + 512 * f.val + 4 * q

/-- The `q`-th word of an array, in R55's byte lanes: `{a[4q+3], a[4q+2], a[4q+1], a[4q]}` (R88). -/
def arrayWord (a : Vector Byte 512) (q : Fin 128) : Word := a[4 * q.val + 3] ++ a[4 * q.val + 2] ++ a[4 * q.val + 1] ++ a[4 * q.val]

/-- The accesses of a host line, in order (R87, R88). -/
def HostLine.expand : HostLine → List HostAccess
  | .cmd i => [.wr32 0x000 (encode i)]
  | .word n => [.wr32 0x000 n]
  | .wr32 o n => [.wr32 o n]
  | .rd32 o => [.rd32 o]
  | .wr8 o n => [.wr8 o n]
  | .rd8 o => [.rd8 o]
  | .fill f a => (List.finRange 128).map fun q => .wr32 (frameWordOffset f q.val) (arrayWord a q)
  | .dump f => (List.finRange 128).map fun q => .rd32 (frameWordOffset f q.val)
  | .fclr => [.wr32 0x00C 0x00000001#32]
  | .status => [.rd32 0x004]

/-- The array that the words of a `dump` make up: `a[4q+j] <- w[8j+7:8j]` (R88). -/
def dumpArray (words : List Word) : List Byte := words.flatMap (busBytes 4)

/-- Accesses made one after another, each taking effect at once: a stretch of a host program that the interlock
does not hold (R62). -/
def performAccesses : List HostAccess → State → Host.Outcome State Fault Refusal
  | [], s => .next s
  | a :: rest, s =>
    match performAccess a s with
    | .next t => performAccesses rest t
    | o => o

/-- The state with a host program as the host's accesses to come (R12: "its program is the model's input"). -/
def State.withProgram (s : State) (lines : List HostLine) : State :=
  { s with script := lines.flatMap HostLine.expand }

end Sys2Proof.Machine
end

