-- ==== Sys2Proof/Machine/Assembler.lean ====
section
/-! DEFINITION. The text of a command line (spec/30_encoding.md R87): mnemonic in lower case, operands
separated by commas, registers `v0` to `v7`, frames `f0` to `f7`, `#` a comment to the end of the line. -/

namespace Sys2Proof.Machine

/-- Why a line is no command. -/
inductive AsmError where
  /-- No mnemonic of R87. -/
  | unknownMnemonic
  /-- The wrong number of operands, or one of the wrong kind: "a frame where a register is due, or the
  reverse" (R87). -/
  | badOperands
  deriving DecidableEq, Repr

/-- A blank between the parts of a line. -/
def isBlank (c : Char) : Bool := c == ' ' || c == '\t'

/-- A text without the blanks at its ends. -/
def trimBlanks (cs : List Char) : List Char :=
  ((cs.dropWhile isBlank).reverse.dropWhile isBlank).reverse

/-- The parts of a text between its commas. -/
def splitCommas : List Char → List (List Char)
  | [] => [[]]
  | c :: cs =>
    if c = ',' then [] :: splitCommas cs
    else
      match splitCommas cs with
      | [] => [[c]]
      | t :: ts => (c :: t) :: ts

/-- The value of a digit in base 16. -/
def digitValue (c : Char) : Option Nat :=
  let n := c.toNat
  if 48 ≤ n ∧ n ≤ 57 then some (n - 48)
  else if 97 ≤ n ∧ n ≤ 102 then some (n - 87)
  else if 65 ≤ n ∧ n ≤ 70 then some (n - 55)
  else none

/-- The number that digits in base `base` write, after `acc`. -/
def digitsValue (base acc : Nat) : List Char → Option Nat
  | [] => some acc
  | c :: cs =>
    match digitValue c with
    | some d => if d < base then digitsValue base (acc * base + d) cs else none
    | none => none

/-- A 32-bit number, decimal or `0x` hexadecimal. -/
def wordOperand (cs : List Char) : Option Word :=
  let value := match cs with
    | '0' :: 'x' :: d :: ds => digitsValue 16 0 (d :: ds)
    | d :: ds => digitsValue 10 0 (d :: ds)
    | [] => none
  value.bind fun n => if n < 2 ^ 32 then some (BitVec.ofNat 32 n) else none

/-- A register (`v`) or frame (`f`) operand with its number 0 to 7. -/
def numberedOperand (letter : Char) : List Char → Option (Fin 8)
  | [c, d] =>
    if c = letter then
      match digitValue d with
      | some k => if h : k < 8 then some ⟨k, h⟩ else none
      | none => none
    else none
  | _ => none

/-- The line with mnemonic `m` and operands `ops` (R87). -/
def assembleParts (m : List Char) (ops : List (List Char)) : Except AsmError HostLine :=
  let v := numberedOperand 'v'
  let f := numberedOperand 'f'
  let line (o : Option HostLine) : Except AsmError HostLine :=
    match o with
    | some l => .ok l
    | none => .error .badOperands
  if m = ['e', 'n', 'c', 'o', 'd', 'e'] then
    line (match ops with | [a, b] => (v a).bind fun d => (f b).map fun s => .cmd (.encode d s) | _ => none)
  else if m = ['d', 'e', 'c', 'o', 'd', 'e'] then
    line (match ops with | [a, b] => (f a).bind fun d => (v b).map fun s => .cmd (.decode d s) | _ => none)
  else if m = ['a', 'd', 'd'] then
    line (match ops with
      | [a, b, c] => (v a).bind fun d => (v b).bind fun x => (v c).map fun y => .cmd (.add d x y)
      | _ => none)
  else if m = ['a', 'd', 'd', '_', 'a', 's', 's', 'i', 'g', 'n'] then
    line (match ops with | [a, b] => (v a).bind fun d => (v b).map fun s => .cmd (.addAssign d s) | _ => none)
  else if m = ['.', 'w', 'o', 'r', 'd'] then
    line (match ops with | [a] => (wordOperand a).map .word | _ => none)
  else .error .unknownMnemonic

/-- One line of text: `none` for a line that holds nothing but blanks and a comment (R87). -/
def assembleLine (text : List Char) : Except AsmError (Option HostLine) :=
  let t := trimBlanks (text.takeWhile (· != '#'))
  let m := t.takeWhile (!isBlank ·)
  let rest := t.drop m.length
  if t = [] then .ok none
  else (assembleParts m (if rest = [] then [] else (splitCommas rest).map trimBlanks)).map some

/-- The name of a register or frame. -/
def numberedName (letter : Char) (k : Fin 8) : List Char := [letter, Char.ofNat (48 + k.val)]

/-- A command written out (R87). -/
def commandText : Instr → List Char
  | .encode vd fs => "encode ".toList ++ numberedName 'v' vd ++ ", ".toList ++ numberedName 'f' fs
  | .decode fd vs => "decode ".toList ++ numberedName 'f' fd ++ ", ".toList ++ numberedName 'v' vs
  | .add vd va vb =>
    "add ".toList ++ numberedName 'v' vd ++ ", ".toList ++ numberedName 'v' va ++ ", ".toList ++ numberedName 'v' vb
  | .addAssign vd vb => "add_assign ".toList ++ numberedName 'v' vd ++ ", ".toList ++ numberedName 'v' vb

end Sys2Proof.Machine
end

