-- ==== Sys2Proof/Safety.lean ====
section
/-! DEFINITION. The machine's invariant, and the terms statements are made in: a frame held, a state ready for
a command, a command performed. -/

namespace Sys2Proof.Machine

/-- The invariant of every state a run from reset reaches, and of every state a step leads to from one that
meets it. -/
structure State.Inv (s : State) : Prop where
  /-- The frame buffer's cells are in canonical form, at buffer addresses (R50, R53). -/
  buffer : Memory.wf s.buf
  /-- `CAUSE` is 0 exactly when `FAULT` is 0 (R33, R141, R143). -/
  causeIffFault : s.fault = false ↔ s.cause = .noFault
  /-- `BUSY = 1` implies `FAULT = 0` (R37). -/
  busyNoFault : s.busy = true → s.fault = false
  /-- The word in flight is a command whose source registers hold values (R142, R144). -/
  inFlightChecked : ∀ w, s.inFlight = some w → ∃ i, decodeWord w = .ok i ∧ ∀ k ∈ sourceRegs i, s.isValid k = true
  /-- The storage of a register that holds no value is 0 (R25, R39). -/
  emptyIsZero : ∀ k, s.isValid k = false → s.readV k = BitPlaneVector.zero
  /-- A recorded fault is the newest entry of the ghost record (R143, R147, D12). -/
  faultIsNewest : s.fault = true → s.faultLog.head? = some { cause := s.cause, word := s.faultCmd }
  /-- FAULTCMD is 0 or a word that faulted (R34). -/
  faultCmdFaulted : s.faultCmd = 0#32 ∨ ∃ c, { cause := c, word := s.faultCmd } ∈ s.faultLog

/-- The block checks and issues the next command written to it: nothing in flight, no fault recorded (R142). -/
def State.ready (s : State) : Prop := s.inFlight = none ∧ s.fault = false

/-- No fault was ever raised (D12). -/
def State.neverFaulted (s : State) : Prop := s.faultLog = []

/-- Both steps of a command, issue and then completion, with nothing between them (R174). -/
def perform (i : Instr) (s : State) : Host.Outcome State Fault Refusal :=
  match exec i s with
  | .next t => exec i t
  | o => o

/-- The byte that a BitPlaneVector holds at element `i`: `value[i] = Σ_b M[i][b] · 2^b` (R21). -/
def laneValue (X : BitPlaneVector) (i : Fin 512) : Nat :=
  ((List.finRange 8).map fun b => (X[b].getLsbD i.val).toNat * 2 ^ b.val).sum

/-- One plane and carry at a time from a carry in, for the planes of the two operands in order: the one loop of
R131. -/
def rippleFrom (c : Plane) : List (Plane × Plane) → List Plane
  | [] => []
  | (a, b) :: rest => (a ^^^ b ^^^ c) :: rippleFrom ((a &&& b) ||| (a &&& c) ||| (b &&& c)) rest

/-! ### What an instruction leaves unchanged -/

/-- Register `k`, its valid bit and its storage, is as before. -/
def sameReg (s t : State) (k : VRegNum) : Prop := t.isValid k = s.isValid k ∧ t.readV k = s.readV k

/-- Every byte of the frame buffer reads as before. -/
def sameBuffer (s t : State) : Prop := ∀ a, t.bufByte a = s.bufByte a

/-- FAULT, CAUSE, FAULTCMD and the ghost record are as before. -/
def sameFaults (s t : State) : Prop :=
  t.fault = s.fault ∧ t.cause = s.cause ∧ t.faultCmd = s.faultCmd ∧ t.faultLog = s.faultLog

/-- The draw, the host's accesses to come, the turns and the responses are as before. -/
def sameSurroundings (s t : State) : Prop :=
  t.drawEpoch = s.drawEpoch ∧ t.script = s.script ∧ t.turns = s.turns ∧ t.responses = s.responses

end Sys2Proof.Machine
end

