-- ==== Sys2Proof/Certificates/Slice0/Obligations.lean ====
section
/-! DEFINITION. The statements about the machine, each formalising or derived from rules of the spec. A
statement's docstring says which. -/

open Sys2Proof Sys2Proof.Machine

/-! ### Reset and the invariant -/

/-- What reset leaves (R39, R172): no register valid, storage 0, idle, no fault, STATUS and FAULTCMD 0, each
frame byte its own free value (the draw numbered 0 is the model's, log 3). -/
def Obligations.ResetLeavesBlockIdle : Prop :=
  (∀ k, State.reset.isValid k = false ∧ State.reset.readV k = BitPlaneVector.zero)
    ∧ State.reset.busy = false ∧ State.reset.fault = false ∧ State.reset.cause = .noFault
    ∧ State.reset.faultCmd = 0#32 ∧ State.reset.status = 0#32
    ∧ ∀ a, State.reset.bufByte a = Config.resetByte 0 a

/-- The invariant holds right after reset. -/
def Obligations.ResetMeetsInvariant : Prop := State.reset.Inv

/-- Every step keeps the invariant, whoever moves: canonical memory, CAUSE and FAULT agreeing (R33), BUSY only
without FAULT (R37), only checked commands in flight (R142, R144), unwritten storage zero (R25, R39). -/
def Obligations.StepKeepsInvariant : Prop := ∀ s t, s.Inv → step s = .next t → t.Inv

/-- Reset asserted at any moment (R171): every value of R39, the command in flight abandoned with none of its
effects, a fresh draw of the frame bytes, and a host access that was made and is held gone with no effect. What
its response is, and that an access not yet made and the later ones stay, are the model's choices (log 8). -/
def Obligations.PlatformResetEffect : Prop :=
  ∀ s accessMade, s.turns.head? = some (.reset accessMade) → ∃ t, step s = .next t
    ∧ (∀ k, t.isValid k = false ∧ t.readV k = BitPlaneVector.zero)
    ∧ t.busy = false ∧ t.fault = false ∧ t.cause = .noFault ∧ t.faultCmd = 0#32 ∧ t.status = 0#32
    ∧ (∀ a, t.bufByte a = Config.resetByte (s.drawEpoch + 1) a)
    ∧ t.script = (if accessMade && s.hostHeld then s.script.tail else s.script)
    ∧ t.responses = (if accessMade && s.hostHeld then s.responses ++ [.platformDefined] else s.responses)
    ∧ t.turns = s.turns.tail ∧ t.faultLog = s.faultLog

/-! ### Encoding -/

/-- Decoding an encoded command gives it back, for every command and every operand, as a word, as four bytes,
and as a row of the table of R84. -/
def Obligations.DecodeOfEncode : Prop :=
  ∀ i : Instr, decodeWord (encode i) = .ok i ∧ decodeTableWord 32 (encode i).toNat = some i
    ∧ (patternRow i.opcode).matchesWord (encode i) = true

/-- The exact patterns (R84): a word is the command in a row, with the operands its `d`, `s`, `t` bits say,
exactly when `(w AND mask) = match`; at most one row matches. -/
def Obligations.DecodeFollowsPatternTable : Prop :=
  (∀ w : Word,
      (w &&& 0xFFFFF03F#32 = 0x00001000#32 ↔
        decodeWord w = .ok (.encode (w.extractLsb' 9 3).toFin (w.extractLsb' 6 3).toFin))
      ∧ (w &&& 0xFFFFF03F#32 = 0x00002000#32 ↔
        decodeWord w = .ok (.decode (w.extractLsb' 9 3).toFin (w.extractLsb' 6 3).toFin))
      ∧ (w &&& 0xFFFFF007#32 = 0x00003000#32 ↔
        decodeWord w = .ok (.add (w.extractLsb' 9 3).toFin (w.extractLsb' 6 3).toFin (w.extractLsb' 3 3).toFin))
      ∧ (w &&& 0xFFFFF03F#32 = 0x00004000#32 ↔
        decodeWord w = .ok (.addAssign (w.extractLsb' 9 3).toFin (w.extractLsb' 6 3).toFin)))
    ∧ ∀ w p q, (patternRow p).matchesWord w = true → (patternRow q).matchesWord w = true → p = q

/-- The decoding function (R86), with the order of its tests: reserved opcode, then a must-be-zero field, then the
command of the opcode with its operands. So every word is of one of the three kinds of R85. -/
def Obligations.DecodingFunction : Prop :=
  ∀ w : Word,
    let op := w.extractLsb' 12 4
    let d : Fin 8 := (w.extractLsb' 9 3).toFin
    let s1 : Fin 8 := (w.extractLsb' 6 3).toFin
    let s2 : Fin 8 := (w.extractLsb' 3 3).toFin
    let badOpcode := op = 0#4 ∨ 5#4 ≤ op
    let badReserved := w.extractLsb' 16 16 ≠ 0#16 ∨ w.extractLsb' 0 3 ≠ 0#3 ∨ (op ≠ 3#4 ∧ w.extractLsb' 3 3 ≠ 0#3)
    (decodeWord w = .error .illegalOpcode ↔ badOpcode)
      ∧ (decodeWord w = .error .reservedBits ↔ ¬badOpcode ∧ badReserved)
      ∧ ((∃ i, decodeWord w = .ok i) ↔ ¬badOpcode ∧ ¬badReserved)
      ∧ (wellFormedWord w = true ↔ ¬badOpcode ∧ ¬badReserved)
      ∧ (¬badOpcode → ¬badReserved → decodeWord w = .ok (
          if op = 1#4 then .encode d s1 else if op = 2#4 then .decode d s1
          else if op = 3#4 then .add d s1 s2 else .addAssign d s1))

/-- The worked encodings of R89, read and written. -/
def Obligations.WorkedEncodings : Prop :=
  (encode (.encode 1 0) = 0x00001200#32 ∧ decodeWord 0x00001200#32 = .ok (.encode 1 0))
    ∧ (encode (.decode 2 2) = 0x00002480#32 ∧ decodeWord 0x00002480#32 = .ok (.decode 2 2))
    ∧ (encode (.add 2 0 1) = 0x00003408#32 ∧ decodeWord 0x00003408#32 = .ok (.add 2 0 1))
    ∧ (encode (.addAssign 3 5) = 0x00004740#32 ∧ decodeWord 0x00004740#32 = .ok (.addAssign 3 5))
    ∧ (encode (.add 7 7 7) = 0x00003FF8#32 ∧ decodeWord 0x00003FF8#32 = .ok (.add 7 7 7))

/-- A command written out in the notation of R87 assembles to that command, which is one 32-bit write of its
word to CMD. -/
def Obligations.AssembledTextIsCommand : Prop :=
  ∀ i : Instr, assembleLine (commandText i) = .ok (some (.cmd i))
    ∧ (HostLine.cmd i).expand = [.wr32 0x000 (encode i)]

/-! ### The BitPlaneVector value -/

/-- Plane `b` bit `i` is bit `b` of element `i` (R20). -/
def Obligations.PlaneBitIsElementBit : Prop :=
  ∀ (X : BitPlaneVector) (b : Fin 8) (i : Fin 512), X[b].getLsbD i.val = (decodePlanes X i).getLsbD b.val

/-- BitPlaneVectors and arrays of 512 bytes correspond one to one, by `value[i] = Σ_b M[i][b] · 2^b`; every
bit pattern is a valid BitPlaneVector (R21). -/
def Obligations.VectorsAndArraysCorrespond : Prop :=
  (∀ X i, (decodePlanes X i).toNat = ((List.finRange 8).map fun b => (X[b].getLsbD i.val).toNat * 2 ^ b.val).sum)
    ∧ Function.Bijective decodePlanes
    ∧ (∀ X, encodePlanes (decodePlanes X) = X) ∧ ∀ x, decodePlanes (encodePlanes x) = x

/-! ### The adder's function -/

/-- The ripple of R120, plane by plane, for carry planes 0 to 6. -/
def Obligations.AdderIsTheRipple : Prop :=
  ∀ A B : BitPlaneVector, ∃ carry : Fin 7 → Plane,
    carry 0 = A[0] &&& B[0] ∧ (addPlanes A B)[0] = A[0] ^^^ B[0]
      ∧ (∀ b : Fin 6,
          (addPlanes A B)[b.val + 1] = A[b.val + 1] ^^^ B[b.val + 1] ^^^ carry b.castSucc
            ∧ carry b.succ = (A[b.val + 1] &&& B[b.val + 1]) ||| (A[b.val + 1] &&& carry b.castSucc)
                ||| (B[b.val + 1] &&& carry b.castSucc))
      ∧ (addPlanes A B)[7] = A[7] ^^^ B[7] ^^^ carry 6

/-- The lane law (R121): each element of the sum is the sum of the elements modulo 256, and depends on that
element of the operands only. -/
def Obligations.AdderLaneLaw : Prop :=
  (∀ A B i, laneValue (addPlanes A B) i = (laneValue A i + laneValue B i) % 256)
    ∧ ∀ (A A' B B' : BitPlaneVector) (i : Fin 512),
        (∀ b : Fin 8, A[b].getLsbD i.val = A'[b].getLsbD i.val ∧ B[b].getLsbD i.val = B'[b].getLsbD i.val) →
          ∀ b : Fin 8, (addPlanes A B)[b].getLsbD i.val = (addPlanes A' B')[b].getLsbD i.val

/-- Commutativity (R128), of the function and of the command. -/
def Obligations.AdderCommutative : Prop :=
  (∀ A B, addPlanes A B = addPlanes B A)
    ∧ ∀ s vd va vb, s.ready → s.isValid va = true → s.isValid vb = true →
        perform (.add vd va vb) s = perform (.add vd vb va) s

/-- Identity (R129): the zero vector, which is the encoding of an all-zero array, added to any vector gives that
vector, and so to any encoded array gives what decodes to it. -/
def Obligations.AdderIdentity : Prop :=
  encodePlanes (fun _ => 0#8) = BitPlaneVector.zero
    ∧ (∀ X, addPlanes X BitPlaneVector.zero = X)
    ∧ ∀ x, decodePlanes (addPlanes (encodePlanes x) BitPlaneVector.zero) = x

/-- Associativity (R130). -/
def Obligations.AdderAssociative : Prop :=
  ∀ X Y Z, addPlanes (addPlanes X Y) Z = addPlanes X (addPlanes Y Z)

/-- The ripple as one loop over the eight planes from a zero carry (R131) is the adder. -/
def Obligations.AdderIsOneLoopFromZeroCarry : Prop :=
  ∀ A B : BitPlaneVector, (addPlanes A B).toList = rippleFrom 0#512 (A.toList.zip B.toList)

/-! ### Issue -/

/-- With nothing in flight, no fault recorded and its source registers valid, each command issues: BUSY becomes
1, its word is held, and nothing else changes (R174). -/
def Obligations.CommandsIssue : Prop :=
  ∀ s : State, s.ready →
    (∀ vd fs, exec (.encode vd fs) s = .next { s with inFlight := some (encode (.encode vd fs)) })
      ∧ (∀ fd vs, s.isValid vs = true →
          exec (.decode fd vs) s = .next { s with inFlight := some (encode (.decode fd vs)) })
      ∧ (∀ vd va vb, s.isValid va = true → s.isValid vb = true →
          exec (.add vd va vb) s = .next { s with inFlight := some (encode (.add vd va vb)) })
      ∧ (∀ vd vb, s.isValid vd = true → s.isValid vb = true →
          exec (.addAssign vd vb) s = .next { s with inFlight := some (encode (.addAssign vd vb)) })

/-- A command that reads a register with `VALID = 0` takes the fault UNWRITTEN_VREG at issue (R25, R141, R143):
DECODE by its source, ADD by either source, ADD_ASSIGN by its destination too. Nothing but FAULT, CAUSE and
FAULTCMD changes (and the ghost record, log 4). -/
def Obligations.UnwrittenSourceFaults : Prop :=
  ∀ s : State, s.ready →
    let faulted (i : Instr) : State :=
      { s with fault := true, cause := .unwrittenVreg, faultCmd := encode i, faultLog := { cause := .unwrittenVreg, word := encode i } :: s.faultLog }
    (∀ fd vs, s.isValid vs = false → exec (.decode fd vs) s = .next (faulted (.decode fd vs)))
      ∧ (∀ vd va vb, s.isValid va = false ∨ s.isValid vb = false →
          exec (.add vd va vb) s = .next (faulted (.add vd va vb)))
      ∧ (∀ vd vb, s.isValid vd = false ∨ s.isValid vb = false →
          exec (.addAssign vd vb) s = .next (faulted (.addAssign vd vb)))

/-- The checks at a write to CMD and their order, over all words (R142), with the fault entry of R143 spelled
out: FAULT, CAUSE and FAULTCMD, and nothing else of the block. The clause on the ghost record is the model's: D12
asks for a record, and that it grows newest first is the form of log 4. Which registers a command reads is given
by the bits of the word (R141). -/
def Obligations.IssueChecksInOrder : Prop :=
  ∀ (s : State) (w : Word), s.ready →
    let op := w.extractLsb' 12 4
    let d : VRegNum := (w.extractLsb' 9 3).toFin
    let s1 : VRegNum := (w.extractLsb' 6 3).toFin
    let s2 : VRegNum := (w.extractLsb' 3 3).toFin
    let faulted (c : FaultCause) : State :=
      { s with fault := true, cause := c, faultCmd := w, faultLog := { cause := c, word := w } :: s.faultLog }
    busWrite s 0x0 4 w = .next (
      if op = 0#4 ∨ 5#4 ≤ op then faulted .illegalOpcode
      else if w.extractLsb' 16 16 ≠ 0#16 ∨ w.extractLsb' 0 3 ≠ 0#3 ∨ (op ≠ 3#4 ∧ w.extractLsb' 3 3 ≠ 0#3) then
        faulted .reservedBits
      else if (op = 2#4 ∧ s.isValid s1 = false)
          ∨ (op = 3#4 ∧ (s.isValid s1 = false ∨ s.isValid s2 = false))
          ∨ (op = 4#4 ∧ (s.isValid d = false ∨ s.isValid s1 = false)) then faulted .unwrittenVreg
      else { s with inFlight := some w })

/-! ### Completion of each command -/

/-- ENCODE completes (R100): the planes of `V[vd]` are the bits of frame `fs`, VALID is set; no other register,
no byte of the frame buffer (R69), no fault state changes; BUSY becomes 0. -/
def Obligations.EncodeCompletes : Prop :=
  ∀ (s : State) vd fs, s.inFlight = some (encode (.encode vd fs)) →
    ∃ t, exec (.encode vd fs) s = .next t
      ∧ (∀ (b : Fin 8) (i : Fin 512),
          (t.readV vd)[b].getLsbD i.val = (s.bufByte (frameAddr fs i.val)).getLsbD b.val)
      ∧ t.isValid vd = true ∧ (∀ k, k ≠ vd → sameReg s t k)
      ∧ sameBuffer s t ∧ t.busy = false ∧ sameFaults s t ∧ sameSurroundings s t

/-- DECODE completes (R103): element `i` of frame `fd` is `Σ_b X.P[b][i] · 2^b` of `X = V[vs]`; no byte outside
the frame (R69), no register (R106), no fault state changes; BUSY becomes 0. -/
def Obligations.DecodeCompletes : Prop :=
  ∀ (s : State) fd vs, s.inFlight = some (encode (.decode fd vs)) → s.isValid vs = true →
    ∃ t, exec (.decode fd vs) s = .next t
      ∧ (∀ i : Fin 512, (t.bufByte (frameAddr fd i.val)).toNat = laneValue (s.readV vs) i)
      ∧ (∀ a, a < frameAddr fd 0 ∨ frameAddr fd 0 + 512 ≤ a → t.bufByte a = s.bufByte a)
      ∧ (∀ k, sameReg s t k) ∧ t.busy = false ∧ sameFaults s t ∧ sameSurroundings s t

/-- ADD completes (R124), whatever registers its fields name (R127): every element of `V[vd]` is the sum modulo
256 of the elements the sources held; no other register, no byte of the frame buffer, no fault state changes. -/
def Obligations.AddCompletes : Prop :=
  ∀ (s : State) vd va vb, s.inFlight = some (encode (.add vd va vb)) →
    s.isValid va = true → s.isValid vb = true →
    ∃ t, exec (.add vd va vb) s = .next t
      ∧ t.readV vd = addPlanes (s.readV va) (s.readV vb)
      ∧ (∀ i, laneValue (t.readV vd) i = (laneValue (s.readV va) i + laneValue (s.readV vb) i) % 256)
      ∧ t.isValid vd = true ∧ (∀ k, k ≠ vd → sameReg s t k)
      ∧ sameBuffer s t ∧ t.busy = false ∧ sameFaults s t ∧ sameSurroundings s t

/-- ADD_ASSIGN completes (R125), `vb` equal to `vd` or not (R127): every element of `V[vd]` becomes the sum
modulo 256 of what it held and of the element of `V[vb]`; no other register, no byte, no fault state changes. -/
def Obligations.AddAssignCompletes : Prop :=
  ∀ (s : State) vd vb, s.inFlight = some (encode (.addAssign vd vb)) →
    s.isValid vd = true → s.isValid vb = true →
    ∃ t, exec (.addAssign vd vb) s = .next t
      ∧ t.readV vd = addPlanes (s.readV vd) (s.readV vb)
      ∧ (∀ i, laneValue (t.readV vd) i = (laneValue (s.readV vd) i + laneValue (s.readV vb) i) % 256)
      ∧ t.isValid vd = true ∧ (∀ k, k ≠ vd → sameReg s t k)
      ∧ sameBuffer s t ∧ t.busy = false ∧ sameFaults s t ∧ sameSurroundings s t

/-- The source registers of DECODE are as before, and no other register changes (R106), over both of its steps. -/
def Obligations.DecodeKeepsRegisters : Prop :=
  ∀ (s : State) fd vs, s.ready → s.isValid vs = true →
    ∃ t, perform (.decode fd vs) s = .next t ∧ (∀ k, t.isValid k = s.isValid k ∧ t.readV k = s.readV k)

/-- The two call shapes agree (R126): with its sources valid, `add_assign vD, vB` leaves the state that
`add vD, vD, vB` leaves; it writes no register but `V[D]`, and the sum depends on `V[D]` and `V[B]` only. -/
def Obligations.AddAssignIsAddInPlace : Prop :=
  ∀ (s : State) vd vb, s.ready → s.isValid vd = true → s.isValid vb = true →
    ∃ t, perform (.addAssign vd vb) s = .next t ∧ perform (.add vd vd vb) s = .next t
      ∧ (∀ k, k ≠ vd → sameReg s t k)
      ∧ ∀ s' t', s'.ready → s'.isValid vd = true → s'.isValid vb = true →
          s'.readV vd = s.readV vd → s'.readV vb = s.readV vb →
          perform (.addAssign vd vb) s' = .next t' → t'.readV vd = t.readV vd

/-- Round trip of an array (R104): ENCODE of frame `f` into any register, then DECODE of it to any frame `g`,
leaves in `g` what `f` held. -/
def Obligations.FrameRoundTrip : Prop :=
  (∀ x, decodePlanes (encodePlanes x) = x)
    ∧ ∀ (s : State) (k : VRegNum) (f g : FrameNum), s.ready →
        ∃ t u, perform (.encode k f) s = .next t ∧ perform (.decode g k) t = .next u
          ∧ ∀ i : Fin 512, u.bufByte (512 * g.val + i.val) = s.bufByte (512 * f.val + i.val)

/-- Round trip of a register (R105): DECODE of a valid register to any frame, then ENCODE of that frame into any
register, gives back its value. -/
def Obligations.RegisterRoundTrip : Prop :=
  ∀ (s : State) (k j : VRegNum) (g : FrameNum), s.ready → s.isValid k = true →
    ∃ t u, perform (.decode g k) s = .next t ∧ perform (.encode j g) t = .next u
      ∧ u.isValid j = true ∧ u.readV j = s.readV k

/-- No command ends in a stop: in every state, with every operand and whatever the data, it answers a next
state. At issue and at completion with valid sources this is R140 and R144, and the statements of issue and
completion say what the state is. That a call with another command in flight, and a completion whose source
register is not valid, answer next too is the model's choice (log 5). -/
def Obligations.EveryCommandAnswersNext : Prop := ∀ i s, ∃ t, exec i s = .next t

/-! ### Faults over the whole machine -/

/-- While a fault is recorded a write to CMD is discarded: the word is not checked and no state changes (R145).
At a step, the host's write is taken and that is all. -/
def Obligations.CommandsDiscardedWhileFaulted : Prop :=
  ∀ (s : State) (w : Word), s.inFlight = none → s.fault = true →
    commandWrite w s = .next s
      ∧ ∀ rest, s.script = .wr32 0x0 w :: rest → s.resetTurn = false →
          step s = .next { s with script := rest, turns := s.turns.tail, responses := s.responses ++ [.written] }

/-- Fault exit (R146): a write to CTRL with bit 0 set clears FAULT and CAUSE and nothing else; with bit 0 clear
it has no effect, and with no fault recorded neither has (R35). Afterwards commands are checked and issued
again, and reset too clears the fault. -/
def Obligations.FclrClearsFault : Prop :=
  (∀ (s : State) (v : Word), v.getLsbD 0 = true →
      busWrite s 0xC 4 v = .next { s with fault := false, cause := .noFault }
        ∧ (s.inFlight = none → ∃ t, busWrite s 0xC 4 v = .next t ∧ t.ready))
    ∧ (∀ (s : State) (v : Word), v.getLsbD 0 = false → busWrite s 0xC 4 v = .next s)
    ∧ (∀ (s : State) (v : Word), s.Inv → s.fault = false → busWrite s 0xC 4 v = .next s)
    ∧ ∀ s : State, (∀ m, (platformReset m s).fault = false ∧ (platformReset m s).cause = .noFault)

/-- Faults do not nest (R147): a step that starts and ends with a fault recorded keeps its cause and its word,
and adds no fault entry. -/
def Obligations.FaultsDoNotNest : Prop :=
  ∀ s t : State, s.fault = true → step s = .next t → t.fault = true →
    t.cause = s.cause ∧ t.faultCmd = s.faultCmd ∧ t.faultLog = s.faultLog

/-- Only a fault entry writes FAULTCMD, and reset (R34): a step that changes it either records a fault with that
word or is a reset, which leaves 0. -/
def Obligations.FaultCmdWrittenByFaultEntry : Prop :=
  ∀ s t : State, step s = .next t → t.faultCmd ≠ s.faultCmd →
    (t.fault = true ∧ t.faultLog = { cause := t.cause, word := t.faultCmd } :: s.faultLog)
      ∨ (s.resetTurn = true ∧ t.faultCmd = 0#32)

/-- The completion step raises no fault (R144): it leaves FAULT, CAUSE, FAULTCMD as they were, and BUSY 0. -/
def Obligations.CompletionRaisesNoFault : Prop :=
  ∀ s : State, s.Inv → s.busy = true → ∃ t, blockMove s = .next t ∧ t.busy = false ∧ sameFaults s t

/-- The ghost record of D12 (log 4, the model's own) is never erased, by no step and no reset. -/
def Obligations.FaultRecordOnlyGrows : Prop :=
  ∀ s t : State, step s = .next t → t.faultLog = s.faultLog ∨ ∃ r, t.faultLog = r :: s.faultLog

/-! ### A step runs the decoded command -/

/-- The step at which the host's write of a command word reaches CMD runs that command (its issue), after the
access has left the script and been answered (R32, R174). -/
def Obligations.StepIssuesWrittenCommand : Prop :=
  ∀ (s : State) (w : Word) (i : Instr) rest, s.inFlight = none → s.script = .wr32 0x0 w :: rest →
    s.resetTurn = false → decodeWord w = .ok i →
    step s = exec i { s with script := rest, turns := s.turns.tail, responses := s.responses ++ [.written] }

/-- The step at which the block moves runs the command in flight (its completion) (R174, R175). The block moves
when the turn is not the host's, or when the host has no access to make that is not held (R61, R179). -/
def Obligations.StepCompletesCommandInFlight : Prop :=
  ∀ (s : State) (w : Word) (i : Instr), s.inFlight = some w → decodeWord w = .ok i →
    s.resetTurn = false → (s.turns.head? ≠ some .host ∨ s.hostEnabled = false) →
    step s = exec i { s with turns := s.turns.tail }

/-- A word placed by `withFetchWord` is what the very next step runs, in every state. -/
def Obligations.StepRunsPlacedWord : Prop :=
  ∀ (s : State) (w : Word) (i : Instr), decodeWord w = .ok i →
    step (s.withFetchWord 32 w.toNat)
      = exec i { s with
          inFlight := none, fault := false, cause := .noFault, turns := [],
          responses := s.responses ++ [.written] }

/-! ### The interlock and the order of moves -/

/-- The interlock (R61), for every access that is not refused: while BUSY, a write to CMD, a write to CTRL and any
access to the frame buffer have no effect: the machine's move is the block's completion (or a reset), and the
access stays next. Every other access takes effect at once when it is the host's turn. Whose turn it is, is the
model's input (log 2). -/
def Obligations.InterlockHoldsAccesses : Prop :=
  ∀ (s : State) (a : HostAccess) rest, a.wellFormed = true → s.busy = true → s.script = a :: rest → s.resetTurn = false →
    (((∃ w, a = .wr32 0x0 w ∨ a = .wr32 0xC w) ∨ 0x1000 ≤ a.offset) →
        step s = blockMove { s with turns := s.turns.tail })
      ∧ ((a.written = none ∨ (a.offset ≠ 0x0 ∧ a.offset ≠ 0xC)) → a.offset < 0x1000 →
          s.turns.head? = some .host →
          step s = performAccess a { s with script := rest, turns := s.turns.tail })

/-- Completion always happens (R175): in every busy state that meets the invariant the block's move is enabled
and ends the command; and a run reaches a state that is not busy within one step more than there are turns
left, whatever the host does, unless the model refuses the host's program on the way. -/
def Obligations.CompletionAlwaysHappens : Prop :=
  ∀ s : State, s.Inv → s.busy = true →
    (∃ t, blockMove s = .next t ∧ t.busy = false)
      ∧ ∃ n, n ≤ s.turns.length + 1 ∧
          ((∃ t, Host.Core.run Sys2Proof.core n s = .next t ∧ State.busy t = false)
            ∨ ∃ r, Host.Core.run Sys2Proof.core n s = .refused r)

/-- What the host sees during a command (R178): a STATUS read returns BUSY 1, FAULT 0, CAUSE 0 and the VALID
bits as they are, a FAULTCMD read the FAULTCMD as it is, and neither changes the block. -/
def Obligations.ReadsDuringCommand : Prop :=
  ∀ (s : State) rest, s.Inv → s.busy = true → s.turns.head? = some .host →
    (s.script = .rd32 0x4 :: rest → ∃ v : Word,
        step s = .next { s with script := rest, turns := s.turns.tail, responses := s.responses ++ [.data v] }
          ∧ v.getLsbD 0 = true ∧ v.getLsbD 1 = false ∧ v.extractLsb' 4 4 = 0#4
          ∧ ∀ k : VRegNum, v.getLsbD (8 + k.val) = s.isValid k)
      ∧ (s.script = .rd32 0x8 :: rest →
        step s = .next { s with script := rest, turns := s.turns.tail, responses := s.responses ++ [.data s.faultCmd] })

/-- The host's accesses take effect in its program order (R62). With nothing in flight and no reset, the step is
the host's next access, whatever it is. Every step that changes the accesses to come takes off the first and
either performs just that one, or is a reset that ends it while it is held, without effect (R171; what its
response is, is log 8's). A step that leaves them as they were gives the host no response. -/
def Obligations.HostOrderKept : Prop :=
  (∀ (s : State) (a : HostAccess) rest, s.busy = false → s.script = a :: rest → s.resetTurn = false →
      step s = performAccess a { s with script := rest, turns := s.turns.tail })
    ∧ (∀ s t : State, step s = .next t → t.script ≠ s.script →
        ∃ a rest, s.script = a :: rest ∧ t.script = rest
          ∧ ((s.resetTurn = false ∧ step s = performAccess a { s with script := rest, turns := s.turns.tail })
            ∨ (s.turns.head? = some (.reset true) ∧ s.busy = true ∧ HostAccess.heldWhileBusy a = true
                ∧ t.responses = s.responses ++ [.platformDefined])))
    ∧ ∀ s t : State, step s = .next t → t.script = s.script → t.responses = s.responses

/-! ### Who writes what -/

/-- Only reset clears a VALID bit (R26), and a register changes only at a reset or at the completion of a command
that names it as its destination. -/
def Obligations.RegistersChangeOnlyAtCompletion : Prop :=
  ∀ (s t : State) (k : VRegNum), step s = .next t →
    (s.isValid k = true → t.isValid k = false → s.resetTurn = true)
      ∧ (¬sameReg s t k → s.resetTurn = true
          ∨ ∃ w, s.inFlight = some w ∧ t.inFlight = none ∧ t.isValid k = true
              ∧ ((∃ fs, decodeWord w = .ok (.encode k fs)) ∨ (∃ va vb, decodeWord w = .ok (.add k va vb))
                  ∨ ∃ vb, decodeWord w = .ok (.addAssign k vb)))

/-- Which steps change a byte of the frame buffer (R69, R60): a reset (a fresh draw), the completion of a DECODE
to its frame, or the host's next access being a write that covers it, made with nothing in flight. -/
def Obligations.BufferChangesOnlyByDecodeOrHost : Prop :=
  ∀ (s t : State) (x : Nat), step s = .next t → t.bufByte x ≠ s.bufByte x →
    s.resetTurn = true
      ∨ (∃ w fd vs, s.inFlight = some w ∧ t.inFlight = none ∧ decodeWord w = .ok (.decode fd vs)
          ∧ 512 * fd.val ≤ x ∧ x < 512 * fd.val + 512)
      ∨ ∃ a rest v, s.script = a :: rest ∧ t.script = rest ∧ a.written = some v ∧ s.busy = false
          ∧ a.offset ≤ 0x1000 + x ∧ 0x1000 + x < a.offset + a.width

/-- A register write replaces the value whole and changes no other register (R27). -/
def Obligations.RegisterWriteIsolated : Prop :=
  ∀ (s : State) (j : VRegNum) (X : BitPlaneVector),
    (s.writeV j X).readV j = X ∧ ∀ k, k ≠ j → (s.writeV j X).readV k = s.readV k ∧ (s.writeV j X).isValid k = s.isValid k

/-! ### Memory and the bus -/

/-- Bytes written from an address upward read back there, and every other byte reads as before (R16, R62). -/
def Obligations.BufferReadAfterWrite : Prop :=
  ∀ (s : State) (a : Nat) (bs : List Byte) (x : Nat),
    (s.writeBuf a bs).bufByte x = if h : a ≤ x ∧ x - a < bs.length then bs[x - a] else s.bufByte x

/-- Little-endian lanes (R55): the byte at offset `o + j` of an `n`-byte access is bits `[8j+7:8j]` of the bus
value, reading and writing; a 32-bit read of a frame's word is `{e[4q+3], e[4q+2], e[4q+1], e[4q]}`. -/
def Obligations.HostBytesLittleEndian : Prop :=
  (∀ (s : State) (o n : Nat), 0x1000 ≤ o → (n = 1 ∨ n = 2 ∨ n = 4) →
      (∀ j, j < n → (busRead s o n).extractLsb' (8 * j) 8 = s.bufByte (o - 0x1000 + j))
        ∧ (∀ j, n ≤ j → j < 4 → (busRead s o n).extractLsb' (8 * j) 8 = 0#8)
        ∧ ∀ v : Word, ∃ t, busWrite s o n v = .next t
          ∧ (∀ j, j < n → t.bufByte (o - 0x1000 + j) = v.extractLsb' (8 * j) 8)
          ∧ ∀ x, x < o - 0x1000 ∨ o - 0x1000 + n ≤ x → t.bufByte x = s.bufByte x)
    ∧ ∀ (s : State) (f : FrameNum) (q : Nat), q < 128 →
        let e := fun i => s.bufByte (512 * f.val + i)
        busRead s (0x1000 + 512 * f.val + 4 * q) 4 = e (4 * q + 3) ++ e (4 * q + 2) ++ e (4 * q + 1) ++ e (4 * q)

/-- The STATUS register (R33): its fields bit by bit, a read that changes nothing, a write that has no effect. -/
def Obligations.StatusRegister : Prop :=
  ∀ s : State,
    s.status.getLsbD 0 = s.busy ∧ s.status.getLsbD 1 = s.fault ∧ s.status.extractLsb' 2 2 = 0#2
      ∧ s.status.extractLsb' 4 4 = s.cause.code ∧ (∀ k : VRegNum, s.status.getLsbD (8 + k.val) = s.isValid k)
      ∧ s.status.extractLsb' 16 16 = 0#16
      ∧ (s.Inv → s.fault = false → s.status.extractLsb' 4 4 = 0#4)
      ∧ performAccess (.rd32 0x4) s = .next { s with responses := s.responses ++ [.data s.status] }
      ∧ ∀ v, performAccess (.wr32 0x4 v) s = .next { s with responses := s.responses ++ [.written] }

/-- Reserved offsets (R52): an aligned access in `0x0010` to `0x0FFF` reads 0 or writes nothing. CMD and CTRL
read 0 and the reserved bits of CTRL are ignored (R31, R35). -/
def Obligations.ReservedOffsetsReadZero : Prop :=
  (∀ (s : State) (a : HostAccess), 0x10 ≤ a.offset → a.offset < 0x1000 → a.aligned = true →
      performAccess a s = .next { s with responses := s.responses ++ [if a.written = none then .data 0#32 else .written] })
    ∧ (∀ s : State, performAccess (.rd32 0x0) s = .next { s with responses := s.responses ++ [.data 0#32] }
        ∧ performAccess (.rd32 0xC) s = .next { s with responses := s.responses ++ [.data 0#32] })
    ∧ (∀ s : State, s.status.extractLsb' 2 2 = 0#2 ∧ s.status.extractLsb' 16 16 = 0#16)
    ∧ ∀ (s : State) (v : Word), v.getLsbD 0 = false →
        performAccess (.wr32 0xC v) s = .next { s with responses := s.responses ++ [.written] }

/-- No read has a side effect (R60): a well-formed read answers its data and changes nothing else; reading
again gives the same data. -/
def Obligations.ReadsHaveNoSideEffect : Prop :=
  ∀ (s : State) (a : HostAccess), a.wellFormed = true → a.written = none →
    ∃ v, performAccess a s = .next { s with responses := s.responses ++ [.data v] }
      ∧ performAccess a { s with responses := s.responses ++ [.data v] }
          = .next { s with responses := s.responses ++ [.data v, .data v] }

/-- Which accesses the model refuses (R57, R58, R51): exactly those that are misaligned, narrow on a control
register or outside the window; every other access completes. A program whose next access is one of these is
refused when the host makes it, BUSY or not, and no step that goes on takes the access away, a reset no more than
any other. That the interlock does not hold such an access, and that one outside the window is refused, are the
model's choices (log 9). -/
def Obligations.RefusedAccessesAreIllFormed : Prop :=
  (∀ (s : State) (a : HostAccess), s.busy = false →
      (a.wellFormed = false ↔ ∃ r, performAccess a s = .refused r)
        ∧ (a.wellFormed = true ↔ ∃ t, performAccess a s = .next t))
    ∧ ∀ (s : State) (a : HostAccess) rest, a.wellFormed = false → s.script = a :: rest →
        (s.turns.head? = some .host ∨ (s.busy = false ∧ s.resetTurn = false) → ∃ r, step s = .refused r)
          ∧ ∀ t, step s = .next t → t.script = s.script

/-- The host lines `fill` and `dump` (R88): with nothing in flight, `fill fN, a` leaves the array `a` in frame `N`,
and no other byte of the frame buffer and nothing else of the block changed; `dump fN` then receives 128 words
that make up the array the frame holds. -/
def Obligations.FillAndDumpMoveWholeFrames : Prop :=
  ∀ (s : State) (f : FrameNum), s.busy = false →
    (∀ a : Vector Byte 512, ∃ t, performAccesses (HostLine.fill f a).expand s = .next t
        ∧ (∀ i : Fin 512, t.bufByte (512 * f.val + i.val) = a[i])
        ∧ (∀ x, x < 512 * f.val ∨ 512 * f.val + 512 ≤ x → t.bufByte x = s.bufByte x)
        ∧ (∀ k, sameReg s t k) ∧ t.inFlight = s.inFlight ∧ sameFaults s t)
      ∧ ∃ words : List Word, words.length = 128
          ∧ performAccesses (HostLine.dump f).expand s = .next { s with responses := s.responses ++ words.map .data }
          ∧ ∀ i : Fin 512, (dumpArray words)[i.val]? = some (s.bufByte (512 * f.val + i.val))

/-- The window (R50, R51): for every `BASE`, host address `BASE + o` with `o < 0x2000` is offset `o`, and no
other address is in the window. That `BASE` is a natural number and that the window does not wrap around the top
of the host's address space are the model's choices (log 6). -/
def Obligations.WindowAtEveryBase : Prop :=
  ∀ base addr o, windowOffset base addr = some o ↔ addr = base + o ∧ o < 0x2000
end

