-- ==== Sys2Proof/Laws/Encoding.lean ====
section
/-! SUPPORT. The laws of the command word: a word is its fields, what the decoder can answer, and that only the
encoding of a command decodes to it. -/

namespace Sys2Proof

/-- A word is its six fields side by side (R80). -/
theorem word_of_fields (w : Word) :
    w = (CmdFields.ofWord w).rsvHi ++ (CmdFields.ofWord w).op ++ (CmdFields.ofWord w).d ++ (CmdFields.ofWord w).s1
      ++ (CmdFields.ofWord w).s2 ++ (CmdFields.ofWord w).rsvLo := by
  apply BitVec.eq_of_getLsbD_eq
  intro i hi
  simp only [CmdFields.ofWord, BitVec.getLsbD_append, BitVec.getLsbD_extractLsb']
  interval_cases i <;> simp

/-- Words with the same fields are the same word. -/
theorem word_ext_fields {v w : Word} (h : CmdFields.ofWord v = CmdFields.ofWord w) : v = w := by
  rw [word_of_fields v, word_of_fields w, h]

theorem opcodeOf_eq_none_iff (b : BitVec 4) : opcodeOf b = none ↔ b = 0#4 ∨ 5#4 ≤ b := by
  revert b
  decide

theorem opcodeOf_eq_encode_iff (b : BitVec 4) : opcodeOf b = some .encode ↔ b = 1#4 := by
  revert b
  decide

theorem opcodeOf_eq_decode_iff (b : BitVec 4) : opcodeOf b = some .decode ↔ b = 2#4 := by
  revert b
  decide

theorem opcodeOf_eq_add_iff (b : BitVec 4) : opcodeOf b = some .add ↔ b = 3#4 := by
  revert b
  decide

theorem opcodeOf_eq_addAssign_iff (b : BitVec 4) : opcodeOf b = some .addAssign ↔ b = 4#4 := by
  revert b
  decide

/-- Everything the decoder can answer. -/
theorem decodeWord_cases (w : Word) :
    (opcodeOf (CmdFields.ofWord w).op = none ∧ decodeWord w = .error .illegalOpcode)
      ∨ (∃ op, opcodeOf (CmdFields.ofWord w).op = some op ∧ reservedFieldSet op (CmdFields.ofWord w) = true
          ∧ decodeWord w = .error .reservedBits)
      ∨ ∃ op, opcodeOf (CmdFields.ofWord w).op = some op ∧ reservedFieldSet op (CmdFields.ofWord w) = false
          ∧ decodeWord w = .ok (assembleOperands op (CmdFields.ofWord w)) := by
  cases h : opcodeOf (CmdFields.ofWord w).op with
  | none => exact .inl ⟨rfl, by simp [decodeWord, h]⟩
  | some op =>
    cases h2 : reservedFieldSet op (CmdFields.ofWord w) with
    | true => exact .inr (.inl ⟨op, rfl, h2, by simp [decodeWord, h, h2]⟩)
    | false => exact .inr (.inr ⟨op, rfl, h2, by simp [decodeWord, h, h2]⟩)

/-- The fields of a legal word, encoded again, are that word. -/
theorem encode_assembleOperands (w : Word) (op : Opcode) (h1 : opcodeOf (CmdFields.ofWord w).op = some op)
    (h2 : reservedFieldSet op (CmdFields.ofWord w) = false) :
    encode (assembleOperands op (CmdFields.ofWord w)) = w := by
  have hw := word_of_fields w
  generalize CmdFields.ofWord w = f at *
  obtain ⟨hi, b, d, s, t, lo⟩ := f
  subst hw
  cases op with
  | encode =>
    obtain rfl := (opcodeOf_eq_encode_iff b).1 h1
    simp only [reservedFieldSet, bne, Bool.or_eq_false_iff, Bool.not_eq_false', beq_iff_eq] at h2
    obtain ⟨⟨rfl, rfl⟩, ht⟩ := h2
    obtain rfl : t = 0#3 := by simpa using ht
    simp only [assembleOperands]
    revert d s
    decide
  | decode =>
    obtain rfl := (opcodeOf_eq_decode_iff b).1 h1
    simp only [reservedFieldSet, bne, Bool.or_eq_false_iff, Bool.not_eq_false', beq_iff_eq] at h2
    obtain ⟨⟨rfl, rfl⟩, ht⟩ := h2
    obtain rfl : t = 0#3 := by simpa using ht
    simp only [assembleOperands]
    revert d s
    decide
  | add =>
    obtain rfl := (opcodeOf_eq_add_iff b).1 h1
    simp only [reservedFieldSet, bne, Bool.or_eq_false_iff, Bool.not_eq_false', beq_iff_eq] at h2
    obtain ⟨⟨rfl, rfl⟩, -⟩ := h2
    simp only [assembleOperands]
    revert d s t
    decide
  | addAssign =>
    obtain rfl := (opcodeOf_eq_addAssign_iff b).1 h1
    simp only [reservedFieldSet, bne, Bool.or_eq_false_iff, Bool.not_eq_false', beq_iff_eq] at h2
    obtain ⟨⟨rfl, rfl⟩, ht⟩ := h2
    obtain rfl : t = 0#3 := by simpa using ht
    simp only [assembleOperands]
    revert d s
    decide

/-- Only the encoding of a command decodes to it: over all 2^32 words no bit is dropped. -/
theorem encode_of_decodeWord {w : Word} {i : Instr} (h : decodeWord w = .ok i) : encode i = w := by
  rcases decodeWord_cases w with ⟨_, h'⟩ | ⟨_, _, _, h'⟩ | ⟨op, h1, h2, h'⟩
  · simp [h'] at h
  · simp [h'] at h
  · rw [h'] at h
    cases h
    exact encode_assembleOperands w op h1 h2

/-- Four byte lanes hold a word (R55). -/
theorem busValue_busBytes (w : Word) : busValue (busBytes 4 w) = w := by
  apply BitVec.eq_of_getLsbD_eq
  intro i hi
  simp only [busValue, busBytes, BitVec.getLsbD_or, BitVec.getLsbD_setWidth, BitVec.getLsbD_shiftLeft,
    BitVec.getLsbD_ushiftRight]
  interval_cases i <;> simp

end Sys2Proof
end

