-- ==== Sys2Proof/Laws/State.lean ====
section
/-! SUPPORT. One lemma per field per update of the state, true by rfl, and the same for the readings made of
fields, so that no later proof unfolds a record update. -/

namespace Sys2Proof.Machine

/-! ### `State.writeBuf` -/

@[simp] theorem State.writeBuf_vregs (s : State) (a : Nat) (bs : List Byte) : (s.writeBuf a bs).vregs = s.vregs := rfl
@[simp] theorem State.writeBuf_inFlight (s : State) (a : Nat) (bs : List Byte) : (s.writeBuf a bs).inFlight = s.inFlight := rfl
@[simp] theorem State.writeBuf_fault (s : State) (a : Nat) (bs : List Byte) : (s.writeBuf a bs).fault = s.fault := rfl
@[simp] theorem State.writeBuf_cause (s : State) (a : Nat) (bs : List Byte) : (s.writeBuf a bs).cause = s.cause := rfl
@[simp] theorem State.writeBuf_faultCmd (s : State) (a : Nat) (bs : List Byte) : (s.writeBuf a bs).faultCmd = s.faultCmd := rfl
@[simp] theorem State.writeBuf_buf (s : State) (a : Nat) (bs : List Byte) : (s.writeBuf a bs).buf = s.buf.writeRange a bs := rfl
@[simp] theorem State.writeBuf_drawEpoch (s : State) (a : Nat) (bs : List Byte) : (s.writeBuf a bs).drawEpoch = s.drawEpoch := rfl
@[simp] theorem State.writeBuf_faultLog (s : State) (a : Nat) (bs : List Byte) : (s.writeBuf a bs).faultLog = s.faultLog := rfl
@[simp] theorem State.writeBuf_script (s : State) (a : Nat) (bs : List Byte) : (s.writeBuf a bs).script = s.script := rfl
@[simp] theorem State.writeBuf_turns (s : State) (a : Nat) (bs : List Byte) : (s.writeBuf a bs).turns = s.turns := rfl
@[simp] theorem State.writeBuf_responses (s : State) (a : Nat) (bs : List Byte) : (s.writeBuf a bs).responses = s.responses := rfl
@[simp] theorem State.writeBuf_isValid (s : State) (a : Nat) (bs : List Byte) (j : VRegNum) : (s.writeBuf a bs).isValid j = s.isValid j := rfl
@[simp] theorem State.writeBuf_readV (s : State) (a : Nat) (bs : List Byte) (j : VRegNum) : (s.writeBuf a bs).readV j = s.readV j := rfl
@[simp] theorem State.writeBuf_busy (s : State) (a : Nat) (bs : List Byte) : (s.writeBuf a bs).busy = s.busy := rfl

/-! ### `State.writeV` -/

@[simp] theorem State.writeV_vregs (s : State) (k : VRegNum) (X : BitPlaneVector) : (s.writeV k X).vregs = s.vregs.set k { valid := true, planes := X } := rfl
@[simp] theorem State.writeV_inFlight (s : State) (k : VRegNum) (X : BitPlaneVector) : (s.writeV k X).inFlight = s.inFlight := rfl
@[simp] theorem State.writeV_fault (s : State) (k : VRegNum) (X : BitPlaneVector) : (s.writeV k X).fault = s.fault := rfl
@[simp] theorem State.writeV_cause (s : State) (k : VRegNum) (X : BitPlaneVector) : (s.writeV k X).cause = s.cause := rfl
@[simp] theorem State.writeV_faultCmd (s : State) (k : VRegNum) (X : BitPlaneVector) : (s.writeV k X).faultCmd = s.faultCmd := rfl
@[simp] theorem State.writeV_buf (s : State) (k : VRegNum) (X : BitPlaneVector) : (s.writeV k X).buf = s.buf := rfl
@[simp] theorem State.writeV_drawEpoch (s : State) (k : VRegNum) (X : BitPlaneVector) : (s.writeV k X).drawEpoch = s.drawEpoch := rfl
@[simp] theorem State.writeV_faultLog (s : State) (k : VRegNum) (X : BitPlaneVector) : (s.writeV k X).faultLog = s.faultLog := rfl
@[simp] theorem State.writeV_script (s : State) (k : VRegNum) (X : BitPlaneVector) : (s.writeV k X).script = s.script := rfl
@[simp] theorem State.writeV_turns (s : State) (k : VRegNum) (X : BitPlaneVector) : (s.writeV k X).turns = s.turns := rfl
@[simp] theorem State.writeV_responses (s : State) (k : VRegNum) (X : BitPlaneVector) : (s.writeV k X).responses = s.responses := rfl
@[simp] theorem State.writeV_bufByte (s : State) (k : VRegNum) (X : BitPlaneVector) (x : Nat) : (s.writeV k X).bufByte x = s.bufByte x := rfl
@[simp] theorem State.writeV_busy (s : State) (k : VRegNum) (X : BitPlaneVector) : (s.writeV k X).busy = s.busy := rfl

/-! ### `State.enterFault` -/

@[simp] theorem State.enterFault_vregs (s : State) (c : FaultCause) (w : Word) : (s.enterFault c w).vregs = s.vregs := rfl
@[simp] theorem State.enterFault_inFlight (s : State) (c : FaultCause) (w : Word) : (s.enterFault c w).inFlight = s.inFlight := rfl
@[simp] theorem State.enterFault_fault (s : State) (c : FaultCause) (w : Word) : (s.enterFault c w).fault = true := rfl
@[simp] theorem State.enterFault_cause (s : State) (c : FaultCause) (w : Word) : (s.enterFault c w).cause = c := rfl
@[simp] theorem State.enterFault_faultCmd (s : State) (c : FaultCause) (w : Word) : (s.enterFault c w).faultCmd = w := rfl
@[simp] theorem State.enterFault_buf (s : State) (c : FaultCause) (w : Word) : (s.enterFault c w).buf = s.buf := rfl
@[simp] theorem State.enterFault_drawEpoch (s : State) (c : FaultCause) (w : Word) : (s.enterFault c w).drawEpoch = s.drawEpoch := rfl
@[simp] theorem State.enterFault_faultLog (s : State) (c : FaultCause) (w : Word) : (s.enterFault c w).faultLog = { cause := c, word := w } :: s.faultLog := rfl
@[simp] theorem State.enterFault_script (s : State) (c : FaultCause) (w : Word) : (s.enterFault c w).script = s.script := rfl
@[simp] theorem State.enterFault_turns (s : State) (c : FaultCause) (w : Word) : (s.enterFault c w).turns = s.turns := rfl
@[simp] theorem State.enterFault_responses (s : State) (c : FaultCause) (w : Word) : (s.enterFault c w).responses = s.responses := rfl
@[simp] theorem State.enterFault_isValid (s : State) (c : FaultCause) (w : Word) (j : VRegNum) : (s.enterFault c w).isValid j = s.isValid j := rfl
@[simp] theorem State.enterFault_readV (s : State) (c : FaultCause) (w : Word) (j : VRegNum) : (s.enterFault c w).readV j = s.readV j := rfl
@[simp] theorem State.enterFault_bufByte (s : State) (c : FaultCause) (w : Word) (x : Nat) : (s.enterFault c w).bufByte x = s.bufByte x := rfl
@[simp] theorem State.enterFault_busy (s : State) (c : FaultCause) (w : Word) : (s.enterFault c w).busy = s.busy := rfl

/-! ### `State.clearFault` -/

@[simp] theorem State.clearFault_vregs (s : State) : s.clearFault.vregs = s.vregs := rfl
@[simp] theorem State.clearFault_inFlight (s : State) : s.clearFault.inFlight = s.inFlight := rfl
@[simp] theorem State.clearFault_fault (s : State) : s.clearFault.fault = false := rfl
@[simp] theorem State.clearFault_cause (s : State) : s.clearFault.cause = .noFault := rfl
@[simp] theorem State.clearFault_faultCmd (s : State) : s.clearFault.faultCmd = s.faultCmd := rfl
@[simp] theorem State.clearFault_buf (s : State) : s.clearFault.buf = s.buf := rfl
@[simp] theorem State.clearFault_drawEpoch (s : State) : s.clearFault.drawEpoch = s.drawEpoch := rfl
@[simp] theorem State.clearFault_faultLog (s : State) : s.clearFault.faultLog = s.faultLog := rfl
@[simp] theorem State.clearFault_script (s : State) : s.clearFault.script = s.script := rfl
@[simp] theorem State.clearFault_turns (s : State) : s.clearFault.turns = s.turns := rfl
@[simp] theorem State.clearFault_responses (s : State) : s.clearFault.responses = s.responses := rfl
@[simp] theorem State.clearFault_isValid (s : State) (j : VRegNum) : s.clearFault.isValid j = s.isValid j := rfl
@[simp] theorem State.clearFault_readV (s : State) (j : VRegNum) : s.clearFault.readV j = s.readV j := rfl
@[simp] theorem State.clearFault_bufByte (s : State) (x : Nat) : s.clearFault.bufByte x = s.bufByte x := rfl
@[simp] theorem State.clearFault_busy (s : State) : s.clearFault.busy = s.busy := rfl

/-! ### `State.putInFlight` -/

@[simp] theorem State.putInFlight_vregs (s : State) (w : Word) : (s.putInFlight w).vregs = s.vregs := rfl
@[simp] theorem State.putInFlight_inFlight (s : State) (w : Word) : (s.putInFlight w).inFlight = some w := rfl
@[simp] theorem State.putInFlight_fault (s : State) (w : Word) : (s.putInFlight w).fault = s.fault := rfl
@[simp] theorem State.putInFlight_cause (s : State) (w : Word) : (s.putInFlight w).cause = s.cause := rfl
@[simp] theorem State.putInFlight_faultCmd (s : State) (w : Word) : (s.putInFlight w).faultCmd = s.faultCmd := rfl
@[simp] theorem State.putInFlight_buf (s : State) (w : Word) : (s.putInFlight w).buf = s.buf := rfl
@[simp] theorem State.putInFlight_drawEpoch (s : State) (w : Word) : (s.putInFlight w).drawEpoch = s.drawEpoch := rfl
@[simp] theorem State.putInFlight_faultLog (s : State) (w : Word) : (s.putInFlight w).faultLog = s.faultLog := rfl
@[simp] theorem State.putInFlight_script (s : State) (w : Word) : (s.putInFlight w).script = s.script := rfl
@[simp] theorem State.putInFlight_turns (s : State) (w : Word) : (s.putInFlight w).turns = s.turns := rfl
@[simp] theorem State.putInFlight_responses (s : State) (w : Word) : (s.putInFlight w).responses = s.responses := rfl
@[simp] theorem State.putInFlight_isValid (s : State) (w : Word) (j : VRegNum) : (s.putInFlight w).isValid j = s.isValid j := rfl
@[simp] theorem State.putInFlight_readV (s : State) (w : Word) (j : VRegNum) : (s.putInFlight w).readV j = s.readV j := rfl
@[simp] theorem State.putInFlight_bufByte (s : State) (w : Word) (x : Nat) : (s.putInFlight w).bufByte x = s.bufByte x := rfl

/-! ### `State.retire` -/

@[simp] theorem State.retire_vregs (s : State) : s.retire.vregs = s.vregs := rfl
@[simp] theorem State.retire_inFlight (s : State) : s.retire.inFlight = none := rfl
@[simp] theorem State.retire_fault (s : State) : s.retire.fault = s.fault := rfl
@[simp] theorem State.retire_cause (s : State) : s.retire.cause = s.cause := rfl
@[simp] theorem State.retire_faultCmd (s : State) : s.retire.faultCmd = s.faultCmd := rfl
@[simp] theorem State.retire_buf (s : State) : s.retire.buf = s.buf := rfl
@[simp] theorem State.retire_drawEpoch (s : State) : s.retire.drawEpoch = s.drawEpoch := rfl
@[simp] theorem State.retire_faultLog (s : State) : s.retire.faultLog = s.faultLog := rfl
@[simp] theorem State.retire_script (s : State) : s.retire.script = s.script := rfl
@[simp] theorem State.retire_turns (s : State) : s.retire.turns = s.turns := rfl
@[simp] theorem State.retire_responses (s : State) : s.retire.responses = s.responses := rfl
@[simp] theorem State.retire_isValid (s : State) (j : VRegNum) : s.retire.isValid j = s.isValid j := rfl
@[simp] theorem State.retire_readV (s : State) (j : VRegNum) : s.retire.readV j = s.readV j := rfl
@[simp] theorem State.retire_bufByte (s : State) (x : Nat) : s.retire.bufByte x = s.bufByte x := rfl

/-! ### `State.respond` -/

@[simp] theorem State.respond_vregs (s : State) (r : BusResponse) : (s.respond r).vregs = s.vregs := rfl
@[simp] theorem State.respond_inFlight (s : State) (r : BusResponse) : (s.respond r).inFlight = s.inFlight := rfl
@[simp] theorem State.respond_fault (s : State) (r : BusResponse) : (s.respond r).fault = s.fault := rfl
@[simp] theorem State.respond_cause (s : State) (r : BusResponse) : (s.respond r).cause = s.cause := rfl
@[simp] theorem State.respond_faultCmd (s : State) (r : BusResponse) : (s.respond r).faultCmd = s.faultCmd := rfl
@[simp] theorem State.respond_buf (s : State) (r : BusResponse) : (s.respond r).buf = s.buf := rfl
@[simp] theorem State.respond_drawEpoch (s : State) (r : BusResponse) : (s.respond r).drawEpoch = s.drawEpoch := rfl
@[simp] theorem State.respond_faultLog (s : State) (r : BusResponse) : (s.respond r).faultLog = s.faultLog := rfl
@[simp] theorem State.respond_script (s : State) (r : BusResponse) : (s.respond r).script = s.script := rfl
@[simp] theorem State.respond_turns (s : State) (r : BusResponse) : (s.respond r).turns = s.turns := rfl
@[simp] theorem State.respond_responses (s : State) (r : BusResponse) : (s.respond r).responses = s.responses ++ [r] := rfl
@[simp] theorem State.respond_isValid (s : State) (r : BusResponse) (j : VRegNum) : (s.respond r).isValid j = s.isValid j := rfl
@[simp] theorem State.respond_readV (s : State) (r : BusResponse) (j : VRegNum) : (s.respond r).readV j = s.readV j := rfl
@[simp] theorem State.respond_bufByte (s : State) (r : BusResponse) (x : Nat) : (s.respond r).bufByte x = s.bufByte x := rfl
@[simp] theorem State.respond_busy (s : State) (r : BusResponse) : (s.respond r).busy = s.busy := rfl

/-! ### `State.popAccess` -/

@[simp] theorem State.popAccess_vregs (s : State) : s.popAccess.vregs = s.vregs := rfl
@[simp] theorem State.popAccess_inFlight (s : State) : s.popAccess.inFlight = s.inFlight := rfl
@[simp] theorem State.popAccess_fault (s : State) : s.popAccess.fault = s.fault := rfl
@[simp] theorem State.popAccess_cause (s : State) : s.popAccess.cause = s.cause := rfl
@[simp] theorem State.popAccess_faultCmd (s : State) : s.popAccess.faultCmd = s.faultCmd := rfl
@[simp] theorem State.popAccess_buf (s : State) : s.popAccess.buf = s.buf := rfl
@[simp] theorem State.popAccess_drawEpoch (s : State) : s.popAccess.drawEpoch = s.drawEpoch := rfl
@[simp] theorem State.popAccess_faultLog (s : State) : s.popAccess.faultLog = s.faultLog := rfl
@[simp] theorem State.popAccess_script (s : State) : s.popAccess.script = s.script.tail := rfl
@[simp] theorem State.popAccess_turns (s : State) : s.popAccess.turns = s.turns := rfl
@[simp] theorem State.popAccess_responses (s : State) : s.popAccess.responses = s.responses := rfl
@[simp] theorem State.popAccess_isValid (s : State) (j : VRegNum) : s.popAccess.isValid j = s.isValid j := rfl
@[simp] theorem State.popAccess_readV (s : State) (j : VRegNum) : s.popAccess.readV j = s.readV j := rfl
@[simp] theorem State.popAccess_bufByte (s : State) (x : Nat) : s.popAccess.bufByte x = s.bufByte x := rfl
@[simp] theorem State.popAccess_busy (s : State) : s.popAccess.busy = s.busy := rfl

/-! ### `State.popTurn` -/

@[simp] theorem State.popTurn_vregs (s : State) : s.popTurn.vregs = s.vregs := rfl
@[simp] theorem State.popTurn_inFlight (s : State) : s.popTurn.inFlight = s.inFlight := rfl
@[simp] theorem State.popTurn_fault (s : State) : s.popTurn.fault = s.fault := rfl
@[simp] theorem State.popTurn_cause (s : State) : s.popTurn.cause = s.cause := rfl
@[simp] theorem State.popTurn_faultCmd (s : State) : s.popTurn.faultCmd = s.faultCmd := rfl
@[simp] theorem State.popTurn_buf (s : State) : s.popTurn.buf = s.buf := rfl
@[simp] theorem State.popTurn_drawEpoch (s : State) : s.popTurn.drawEpoch = s.drawEpoch := rfl
@[simp] theorem State.popTurn_faultLog (s : State) : s.popTurn.faultLog = s.faultLog := rfl
@[simp] theorem State.popTurn_script (s : State) : s.popTurn.script = s.script := rfl
@[simp] theorem State.popTurn_turns (s : State) : s.popTurn.turns = s.turns.tail := rfl
@[simp] theorem State.popTurn_responses (s : State) : s.popTurn.responses = s.responses := rfl
@[simp] theorem State.popTurn_isValid (s : State) (j : VRegNum) : s.popTurn.isValid j = s.isValid j := rfl
@[simp] theorem State.popTurn_readV (s : State) (j : VRegNum) : s.popTurn.readV j = s.readV j := rfl
@[simp] theorem State.popTurn_bufByte (s : State) (x : Nat) : s.popTurn.bufByte x = s.bufByte x := rfl
@[simp] theorem State.popTurn_busy (s : State) : s.popTurn.busy = s.busy := rfl

/-! ### What the changed readings become -/

@[simp] theorem State.putInFlight_busy (s : State) (w : Word) : (s.putInFlight w).busy = true := rfl
@[simp] theorem State.retire_busy (s : State) : s.retire.busy = false := rfl
@[simp] theorem State.writeFrame_eq (s : State) (f : FrameNum) (y : ByteArray512) :
    s.writeFrame f y = s.writeBuf (frameAddr f 0) (arrayBytes y) := rfl

@[simp] theorem arrayBytes_length (y : ByteArray512) : (arrayBytes y).length = 512 := List.length_ofFn

@[simp] theorem arrayBytes_getElem (y : ByteArray512) (i : Nat) (h : i < (arrayBytes y).length) :
    (arrayBytes y)[i] = y ⟨i, by simpa using h⟩ := List.getElem_ofFn h

@[simp] theorem State.writeV_readV_same (s : State) (k : VRegNum) (X : BitPlaneVector) :
    (s.writeV k X).readV k = X := by
  simp [State.readV]

@[simp] theorem State.writeV_isValid_same (s : State) (k : VRegNum) (X : BitPlaneVector) :
    (s.writeV k X).isValid k = true := by
  simp [State.isValid]

theorem State.writeV_reg_other (s : State) (k j : VRegNum) (X : BitPlaneVector) (h : j ≠ k) :
    (s.writeV k X).vregs[j] = s.vregs[j] := by
  have : k.val ≠ j.val := fun e => h (Fin.ext e.symm)
  simp [this]

/-! ### `State.reset` and `platformReset` -/

@[simp] theorem State.reset_vregs : State.reset.vregs = Vector.replicate 8 VReg.empty := rfl
@[simp] theorem State.reset_inFlight : State.reset.inFlight = none := rfl
@[simp] theorem State.reset_fault : State.reset.fault = false := rfl
@[simp] theorem State.reset_cause : State.reset.cause = .noFault := rfl
@[simp] theorem State.reset_faultCmd : State.reset.faultCmd = 0#32 := rfl
@[simp] theorem State.reset_buf : State.reset.buf = [] := rfl
@[simp] theorem State.reset_drawEpoch : State.reset.drawEpoch = 0 := rfl
@[simp] theorem State.reset_faultLog : State.reset.faultLog = [] := rfl
@[simp] theorem State.reset_script : State.reset.script = [] := rfl
@[simp] theorem State.reset_turns : State.reset.turns = [] := rfl
@[simp] theorem State.reset_responses : State.reset.responses = [] := rfl
@[simp] theorem platformReset_vregs (m : Bool) (s : State) : (platformReset m s).vregs =
    Vector.replicate 8 VReg.empty := rfl
@[simp] theorem platformReset_inFlight (m : Bool) (s : State) : (platformReset m s).inFlight = none := rfl
@[simp] theorem platformReset_fault (m : Bool) (s : State) : (platformReset m s).fault = false := rfl
@[simp] theorem platformReset_cause (m : Bool) (s : State) : (platformReset m s).cause = .noFault := rfl
@[simp] theorem platformReset_faultCmd (m : Bool) (s : State) : (platformReset m s).faultCmd = 0#32 := rfl
@[simp] theorem platformReset_buf (m : Bool) (s : State) : (platformReset m s).buf = [] := rfl
@[simp] theorem platformReset_drawEpoch (m : Bool) (s : State) : (platformReset m s).drawEpoch = s.drawEpoch + 1 := rfl
@[simp] theorem platformReset_faultLog (m : Bool) (s : State) : (platformReset m s).faultLog = s.faultLog := rfl
@[simp] theorem platformReset_script (m : Bool) (s : State) : (platformReset m s).script =
    (if m && s.hostHeld then s.script.tail else s.script) := rfl
@[simp] theorem platformReset_turns (m : Bool) (s : State) : (platformReset m s).turns = s.turns := rfl
@[simp] theorem platformReset_responses (m : Bool) (s : State) : (platformReset m s).responses =
    (if m && s.hostHeld then s.responses ++ [.platformDefined] else s.responses) := rfl

theorem State.isValid_of_replicate {s : State} (h : s.vregs = Vector.replicate 8 VReg.empty) (k : VRegNum) :
    s.isValid k = false ∧ s.readV k = BitPlaneVector.zero := by
  simp [State.isValid, State.readV, h, VReg.empty]

end Sys2Proof.Machine
end

