-- ==== Sys2Proof/Laws/Memory.lean ====
section
/-! SUPPORT. The laws of the frame buffer: what a write leaves at each address, and that it keeps the canonical
form. -/

namespace Sys2Proof.Machine

theorem lookup_cellsFrom (bs : List Byte) (a x : Nat) :
    (cellsFrom a bs).lookup x = if a ≤ x then bs[x - a]? else none := by
  induction bs generalizing a with
  | nil => simp [cellsFrom]
  | cons b bs ih =>
    simp only [cellsFrom, List.lookup_cons, ih]
    by_cases h : x = a
    · subst h; simp
    · have hb : (x == a) = false := by simpa using h
      rw [hb]
      by_cases h' : a ≤ x
      · obtain ⟨d, rfl⟩ : ∃ d, x = a + 1 + d := ⟨x - (a + 1), by omega⟩
        simp [show a + 1 + d - a = d + 1 by omega, show a ≤ a + 1 + d by omega]
      · simp [h', show ¬ a + 1 ≤ x by omega]

theorem lookup_filter_of_pos (m : Memory) (p : Nat → Bool) (x : Nat) (h : p x = true) :
    (m.filter fun c => p c.1).lookup x = m.lookup x := by
  induction m with
  | nil => rfl
  | cons c m ih =>
    obtain ⟨k, v⟩ := c
    by_cases hc : p k = true
    · rw [List.filter_cons_of_pos (by simpa using hc), List.lookup_cons, List.lookup_cons, ih]
    · have : x ≠ k := by rintro rfl; exact hc h
      have hb : (x == k) = false := by simpa using this
      rw [List.filter_cons_of_neg (by simpa using hc), ih, List.lookup_cons, hb]

theorem lookup_filter_of_neg (m : Memory) (p : Nat → Bool) (x : Nat) (h : p x = false) :
    (m.filter fun c => p c.1).lookup x = none := by
  induction m with
  | nil => rfl
  | cons c m ih =>
    obtain ⟨k, v⟩ := c
    by_cases hc : p k = true
    · have : x ≠ k := by rintro rfl; simp [h] at hc
      have hb : (x == k) = false := by simpa using this
      rw [List.filter_cons_of_pos (by simpa using hc), List.lookup_cons, hb]
      exact ih
    · rw [List.filter_cons_of_neg (by simpa using hc), ih]

/-- Everything a write of the frame buffer does: the written addresses hold the written bytes, every other
address holds what it held. -/
theorem lookup_writeRange (m : Memory) (a : Nat) (bs : List Byte) (x : Nat) :
    (m.writeRange a bs).lookup x = if a ≤ x ∧ x < a + bs.length then bs[x - a]? else m.lookup x := by
  simp only [Memory.writeRange, List.lookup_append, lookup_cellsFrom]
  by_cases h1 : x < a
  · rw [lookup_filter_of_pos m (fun y => decide (y < a)) x (by simpa using h1),
      lookup_filter_of_neg m (fun y => decide (a + bs.length ≤ y)) x (by simp; omega)]
    simp [show ¬ a ≤ x by omega]
  · rw [lookup_filter_of_neg m (fun y => decide (y < a)) x (by simpa using h1)]
    by_cases h2 : x < a + bs.length
    · simp [show a ≤ x by omega, h2, show x - a < bs.length by omega]
    · rw [lookup_filter_of_pos m (fun y => decide (a + bs.length ≤ y)) x (by simpa using h2)]
      simp [show a ≤ x by omega, h2, show bs.length ≤ x - a by omega]

theorem mem_cellsFrom {bs : List Byte} {a : Nat} {c : Host.Cell} (h : c ∈ cellsFrom a bs) :
    a ≤ c.1 ∧ c.1 < a + bs.length := by
  induction bs generalizing a with
  | nil => simp [cellsFrom] at h
  | cons b bs ih =>
    rcases List.mem_cons.mp h with rfl | h
    · simp
    · have := ih h
      simp only [List.length_cons]
      omega

theorem cellsFrom_rising (bs : List Byte) (a : Nat) :
    (cellsFrom a bs).Pairwise (fun c d => c.1 < d.1) := by
  induction bs generalizing a with
  | nil => simp [cellsFrom]
  | cons b bs ih =>
    refine List.pairwise_cons.mpr ⟨fun c hc => ?_, ih (a + 1)⟩
    have := (mem_cellsFrom hc).1
    omega

/-- A write inside the buffer keeps the canonical form. -/
theorem writeRange_keeps_wf (m : Memory) (a : Nat) (bs : List Byte) (hm : m.wf)
    (h : a + bs.length ≤ 4096) : (m.writeRange a bs).wf := by
  obtain ⟨hp, hb⟩ := hm
  refine ⟨?_, ?_⟩
  · refine List.pairwise_append.mpr ⟨List.pairwise_append.mpr ⟨hp.filter _, cellsFrom_rising bs a, ?_⟩,
      hp.filter _, ?_⟩
    · intro c hc d hd
      have h1 := (List.mem_filter.mp hc).2
      have h2 := mem_cellsFrom hd
      simp at h1
      omega
    · intro c hc d hd
      have h2 := (List.mem_filter.mp hd).2
      simp at h2
      rcases List.mem_append.mp hc with hc | hc
      · have h1 := (List.mem_filter.mp hc).2
        simp at h1
        omega
      · have h1 := mem_cellsFrom hc
        omega
  · intro c hc
    rcases List.mem_append.mp hc with hc | hc
    · rcases List.mem_append.mp hc with hc | hc
      · exact hb c (List.mem_filter.mp hc).1
      · have := mem_cellsFrom hc
        omega
    · exact hb c (List.mem_filter.mp hc).1

/-- Nothing written is in canonical form: the memory of `State.reset`. -/
theorem reset_memory_wf : Memory.wf State.reset.buf := by decide

theorem busBytes_length (n : Nat) (v : Word) : (busBytes n v).length = n := by
  induction n generalizing v with
  | zero => rfl
  | succ n ih => simp [busBytes, ih]

theorem bufBytes_length (s : State) (a n : Nat) : (s.bufBytes a n).length = n := by
  induction n generalizing a with
  | zero => rfl
  | succ n ih => simp [State.bufBytes, ih]

/-- A whole frame lies in the buffer. -/
theorem frame_in_buffer (f : FrameNum) (y : ByteArray512) : frameAddr f 0 + (arrayBytes y).length ≤ 4096 := by
  have := f.isLt
  rw [arrayBytes_length, frameAddr]
  omega

/-- Writing the frame buffer from the block or from the host keeps the canonical form. -/
theorem writeFrame_keeps_wf (s : State) (f : FrameNum) (y : ByteArray512) (h : Memory.wf s.buf) :
    Memory.wf (s.writeFrame f y).buf :=
  writeRange_keeps_wf s.buf _ _ h (frame_in_buffer f y)

end Sys2Proof.Machine
end

