-- ==== Sys2Proof/Laws/Commands.lean ====
section
/-! SUPPORT. What each shared operation can do, said once: the lifecycle of a command, a write to CMD, a host
access, a move. -/

namespace Sys2Proof.Machine

/-- What the completion of a command does to the block before it retires (R100, R103, R124, R125). -/
def commandEffect : Instr → State → State
  | .encode vd fs, s => s.writeV vd (encodePlanes (s.readFrame fs))
  | .decode fd vs, s => s.writeFrame fd (decodePlanes (s.readV vs))
  | .add vd va vb, s => s.writeV vd (addPlanes (s.readV va) (s.readV vb))
  | .addAssign vd vb, s => s.writeV vd (addPlanes (s.readV vd) (s.readV vb))

/-- With nothing in flight a command does its issue. -/
theorem exec_of_idle (i : Instr) (s : State) (h : s.inFlight = none) :
    exec i s = .next (s.issue (encode i) (sourceRegs i)) := by
  cases i <;> simp [exec, execEncode, execDecode, execAdd, execAddAssign, lifecycle, h]

/-- A command that is in flight does its completion. -/
theorem exec_of_inFlight (i : Instr) (s : State) (h : s.inFlight = some (encode i)) :
    exec i s = .next (commandEffect i s).retire := by
  cases i <;> simp [exec, execEncode, execDecode, execAdd, execAddAssign, lifecycle, h, commandEffect]

/-- A command does nothing while another is in flight. -/
theorem exec_of_other (i : Instr) (s : State) {w : Word} (h : s.inFlight = some w) (hw : w ≠ encode i) :
    exec i s = .next s := by
  cases i <;> simp [exec, execEncode, execDecode, execAdd, execAddAssign, lifecycle, h, hw]

/-- Everything a command can do: its issue, its completion, or nothing while another command is in flight. -/
theorem exec_cases (i : Instr) (s : State) :
    (s.inFlight = none ∧ exec i s = .next (s.issue (encode i) (sourceRegs i)))
      ∨ (s.inFlight = some (encode i) ∧ exec i s = .next (commandEffect i s).retire)
      ∨ ∃ w, s.inFlight = some w ∧ w ≠ encode i ∧ exec i s = .next s := by
  cases h : s.inFlight with
  | none => exact .inl ⟨rfl, exec_of_idle i s h⟩
  | some w =>
    by_cases hw : w = encode i
    · subst hw
      exact .inr (.inl ⟨rfl, exec_of_inFlight i s h⟩)
    · exact .inr (.inr ⟨w, rfl, hw, exec_of_other i s h hw⟩)

/-- Everything an issue can do: discard, issue, or take the fault of an unwritten source. -/
theorem issue_cases (s : State) (w : Word) (srcs : List VRegNum) :
    (s.fault = true ∧ s.issue w srcs = s)
      ∨ (s.fault = false ∧ srcs.all s.isValid = true ∧ s.issue w srcs = s.putInFlight w)
      ∨ (s.fault = false ∧ srcs.all s.isValid = false ∧ s.issue w srcs = s.enterFault .unwrittenVreg w) := by
  cases hf : s.fault <;> cases hv : srcs.all s.isValid <;> simp [State.issue, unlessFaulted, hf, hv]

/-- Everything the write of a word that is no command can do: be discarded, or fault. -/
theorem rejectWord_cases (s : State) (e : DecodeError) (w : Word) :
    (s.fault = true ∧ s.rejectWord e w = s)
      ∨ (s.fault = false ∧ ∃ c, c ≠ .noFault ∧ s.rejectWord e w = s.enterFault c w) := by
  cases hf : s.fault <;> cases e <;> simp [State.rejectWord, unlessFaulted, hf] <;> exact ⟨_, by decide, rfl⟩

/-- The effect of a command leaves alone everything but the registers and the frame buffer. -/
@[simp] theorem commandEffect_inFlight (i : Instr) (s : State) : (commandEffect i s).inFlight = s.inFlight := by
  cases i <;> rfl
@[simp] theorem commandEffect_fault (i : Instr) (s : State) : (commandEffect i s).fault = s.fault := by
  cases i <;> rfl
@[simp] theorem commandEffect_cause (i : Instr) (s : State) : (commandEffect i s).cause = s.cause := by
  cases i <;> rfl
@[simp] theorem commandEffect_faultCmd (i : Instr) (s : State) : (commandEffect i s).faultCmd = s.faultCmd := by
  cases i <;> rfl
@[simp] theorem commandEffect_drawEpoch (i : Instr) (s : State) : (commandEffect i s).drawEpoch = s.drawEpoch := by
  cases i <;> rfl
@[simp] theorem commandEffect_faultLog (i : Instr) (s : State) : (commandEffect i s).faultLog = s.faultLog := by
  cases i <;> rfl
@[simp] theorem commandEffect_script (i : Instr) (s : State) : (commandEffect i s).script = s.script := by
  cases i <;> rfl
@[simp] theorem commandEffect_turns (i : Instr) (s : State) : (commandEffect i s).turns = s.turns := by
  cases i <;> rfl
@[simp] theorem commandEffect_responses (i : Instr) (s : State) : (commandEffect i s).responses = s.responses := by
  cases i <;> rfl

/-- Everything a block move can do. (A word that decodes is the encoding of what it decodes to, so the command it
runs is the one in flight.) -/
theorem blockMove_cases (s : State) :
    (s.inFlight = none ∧ blockMove s = .next s)
      ∨ (∃ w i, s.inFlight = some w ∧ decodeWord w = .ok i ∧ blockMove s = .next (commandEffect i s).retire)
      ∨ ∃ w e, s.inFlight = some w ∧ decodeWord w = .error e ∧ blockMove s = .fault .inFlightNotACommand := by
  cases h : s.inFlight with
  | none => exact .inl ⟨rfl, by simp [blockMove, h]⟩
  | some w =>
    cases hd : decodeWord w with
    | ok i =>
      have hw : s.inFlight = some (encode i) := by rw [h, encode_of_decodeWord hd]
      exact .inr (.inl ⟨w, i, rfl, hd, by simp [blockMove, h, hd, exec_of_inFlight i s hw]⟩)
    | error e => exact .inr (.inr ⟨w, e, rfl, hd, by simp [blockMove, h, hd]⟩)

/-- Everything a write to CMD can do with nothing in flight. -/
theorem commandWrite_cases (w : Word) (s : State) (h : s.inFlight = none) :
    (s.fault = true ∧ commandWrite w s = .next s)
      ∨ (s.fault = false ∧ ∃ i, decodeWord w = .ok i ∧ (sourceRegs i).all s.isValid = true
          ∧ commandWrite w s = .next (s.putInFlight (encode i)))
      ∨ (s.fault = false ∧ ∃ i, decodeWord w = .ok i ∧ (sourceRegs i).all s.isValid = false
          ∧ commandWrite w s = .next (s.enterFault .unwrittenVreg (encode i)))
      ∨ (s.fault = false ∧ ∃ e c, decodeWord w = .error e ∧ c ≠ .noFault
          ∧ commandWrite w s = .next (s.enterFault c w)) := by
  cases hd : decodeWord w with
  | ok i =>
    have hc : commandWrite w s = .next (s.issue (encode i) (sourceRegs i)) := by
      simp [commandWrite, hd, exec_of_idle i s h]
    rcases issue_cases s (encode i) (sourceRegs i) with ⟨hf, e⟩ | ⟨hf, hv, e⟩ | ⟨hf, hv, e⟩
    · exact .inl ⟨hf, by rw [hc, e]⟩
    · exact .inr (.inl ⟨hf, i, rfl, hv, by rw [hc, e]⟩)
    · exact .inr (.inr (.inl ⟨hf, i, rfl, hv, by rw [hc, e]⟩))
  | error x =>
    have hc : commandWrite w s = .next (s.rejectWord x w) := by simp [commandWrite, hd]
    rcases rejectWord_cases s x w with ⟨hf, e⟩ | ⟨hf, c, hne, e⟩
    · exact .inl ⟨hf, by rw [hc, e]⟩
    · exact .inr (.inr (.inr ⟨hf, x, c, rfl, hne, by rw [hc, e]⟩))

/-- Everything a bus write can do: a command write, a write to CTRL, nothing, or bytes into the buffer. -/
theorem busWrite_cases (s : State) (o n : Nat) (v : Word) :
    (o = 0x0 ∧ busWrite s o n v = commandWrite v s)
      ∨ (o = 0xC ∧ busWrite s o n v = .next (ctrlWrite v s))
      ∨ (o ≠ 0x0 ∧ o ≠ 0xC ∧ o < 0x1000 ∧ busWrite s o n v = .next s)
      ∨ (0x1000 ≤ o ∧ busWrite s o n v = .next (s.writeBuf (o - 0x1000) (busBytes n v))) := by
  unfold busWrite
  split
  · exact .inl ⟨‹_›, rfl⟩
  · split
    · exact .inr (.inl ⟨‹_›, rfl⟩)
    · split
      · exact .inr (.inr (.inl ⟨‹_›, ‹_›, ‹_›, rfl⟩))
      · exact .inr (.inr (.inr ⟨by omega, rfl⟩))

/-- Everything a host access can do: be refused, be read, or be written. -/
theorem performAccess_cases (a : HostAccess) (s : State) :
    (∃ r, HostAccess.refusal a = some r ∧ performAccess a s = .refused r)
      ∨ (HostAccess.refusal a = none ∧ a.written = none
          ∧ performAccess a s = .next (s.respond (.data (busRead s a.offset a.width))))
      ∨ ∃ v, HostAccess.refusal a = none ∧ a.written = some v
          ∧ performAccess a s = busWrite (s.respond .written) a.offset a.width v := by
  cases hr : HostAccess.refusal a with
  | some r => exact .inl ⟨r, rfl, by simp [performAccess, hr]⟩
  | none =>
    cases hw : a.written with
    | none => exact .inr (.inl ⟨rfl, rfl, by simp [performAccess, hr, hw]⟩)
    | some v => exact .inr (.inr ⟨v, rfl, rfl, by simp [performAccess, hr, hw]⟩)

/-- An access that is not refused fits the window, so a frame-buffer access fits the buffer. -/
theorem refusal_none_bounds {a : HostAccess} (h : HostAccess.refusal a = none) :
    a.offset < 0x2000 ∧ a.offset % a.width = 0 ∧ (0x1000 ≤ a.offset → a.offset - 0x1000 + a.width ≤ 4096) := by
  unfold HostAccess.refusal at h
  split at h <;> [exact absurd h (by simp); skip]
  split at h <;> [exact absurd h (by simp); skip]
  rename_i h1 h2
  have h2' : a.offset % a.width = 0 := by simpa using h2
  refine ⟨by omega, h2', fun h3 => ?_⟩
  have hw : a.width = 1 ∨ a.width = 2 ∨ a.width = 4 := by cases a <;> simp [HostAccess.width]
  rcases hw with hw | hw | hw <;> rw [hw] at h2' ⊢ <;> omega

/-- The accesses that are not refused are the well-formed ones. -/
theorem refusal_eq_none_iff (a : HostAccess) : HostAccess.refusal a = none ↔ a.wellFormed = true := by
  have hw : a.width = 1 ∨ a.width = 2 ∨ a.width = 4 := by cases a <;> simp [HostAccess.width]
  unfold HostAccess.refusal HostAccess.wellFormed HostAccess.inWindow HostAccess.aligned HostAccess.wideEnough
  rcases hw with hw | hw | hw <;> rw [hw] <;> repeat' split
  all_goals simp; omega

/-- A refused access is never held. -/
theorem not_held_of_refused {a : HostAccess} {r : Refusal} (h : HostAccess.refusal a = some r) :
    HostAccess.heldWhileBusy a = false := by
  simp [HostAccess.heldWhileBusy, h]

/-- Which of the accesses that are not refused the interlock holds. -/
theorem heldWhileBusy_eq {a : HostAccess} (h : HostAccess.refusal a = none) :
    HostAccess.heldWhileBusy a
      = ((a.written.isSome && (a.offset == 0x0 || a.offset == 0xC)) || decide (0x1000 ≤ a.offset)) := by
  simp [HostAccess.heldWhileBusy, h]

/-! ### Who moves -/

/-- The host moves only where its next access is not held. -/
theorem hostEnabled_script {s : State} (h : s.hostEnabled = true) :
    ∃ a rest, s.script = a :: rest ∧ (s.busy = true → HostAccess.heldWhileBusy a = false) := by
  cases hs : s.script with
  | nil => simp [State.hostEnabled, hs] at h
  | cons a rest => exact ⟨a, rest, rfl, fun hb => by simpa [State.hostEnabled, State.hostHeld, hs, hb] using h⟩

/-- With nothing in flight the host cannot move only where it has no access to make. -/
theorem script_nil_of_idle {s : State} (hb : s.busy = false) (h : s.hostEnabled = false) : s.script = [] := by
  cases hs : s.script with
  | nil => rfl
  | cons a rest => simp [State.hostEnabled, State.hostHeld, hs, hb] at h

theorem step_of_mover_host {s : State} {a : HostAccess} {rest : List HostAccess} (h : s.mover = .host)
    (hs : s.script = a :: rest) : step s = performAccess a s.popTurn.popAccess := by
  simp [step, move, h, hostMove, hs]

theorem step_of_mover_block {s : State} (h : s.mover = .block) : step s = blockMove s.popTurn := by
  simp [step, move, h]

theorem step_of_mover_idle {s : State} (h : s.mover = .idle) : step s = .next s.popTurn := by
  simp [step, move, h]

/-- The next turn is a reset. -/
theorem resetTurn_iff (s : State) : s.resetTurn = true ↔ ∃ m, s.turns.head? = some (.reset m) := by
  unfold State.resetTurn
  split <;> simp_all

/-- Who moves where the turn is no reset. -/
theorem mover_cases {s : State} (hr : s.resetTurn = false) :
    (s.mover = .host ∧ s.hostEnabled = true) ∨ (s.mover = .block ∧ s.busy = true)
      ∨ (s.mover = .idle ∧ s.busy = false ∧ s.hostEnabled = false) := by
  rcases hm : s.turns.head? with _ | ⟨_ | _ | _⟩ <;> cases hb : s.busy <;> cases he : s.hostEnabled <;>
    simp_all [State.mover, State.resetTurn]

/-- Everything a step can do, by who moves. -/
theorem step_cases (s : State) :
    (∃ m, s.turns.head? = some (.reset m) ∧ step s = .next (platformReset m s.popTurn))
      ∨ (s.resetTurn = false ∧ s.busy = true ∧ step s = blockMove s.popTurn)
      ∨ (s.resetTurn = false ∧ s.busy = false ∧ s.script = [] ∧ step s = .next s.popTurn)
      ∨ ∃ a rest, s.resetTurn = false ∧ s.script = a :: rest
          ∧ (s.busy = true → HostAccess.heldWhileBusy a = false)
          ∧ step s = performAccess a s.popTurn.popAccess := by
  cases hr : s.resetTurn with
  | true =>
    obtain ⟨m, hm⟩ := (resetTurn_iff s).1 hr
    exact .inl ⟨m, hm, by simp [step, move, State.mover, hm]⟩
  | false =>
    rcases mover_cases hr with ⟨hm, he⟩ | ⟨hm, hb⟩ | ⟨hm, hb, he⟩
    · obtain ⟨a, rest, hs, hh⟩ := hostEnabled_script he
      exact .inr (.inr (.inr ⟨a, rest, rfl, hs, hh, step_of_mover_host hm hs⟩))
    · exact .inr (.inl ⟨rfl, hb, step_of_mover_block hm⟩)
    · exact .inr (.inr (.inl ⟨rfl, hb, script_nil_of_idle hb he, step_of_mover_idle hm⟩))

end Sys2Proof.Machine
end

