-- ==== Sys2Proof/Laws/PerInstr.lean ====
section
/-! SUPPORT. Statements about every instruction, one lemma per constructor. -/

namespace Sys2Proof.Laws

open Sys2Proof

/-- The fields of a command's word, as the opcode map gives them (R81, R83). -/
def commandFields : Instr → CmdFields
  | .encode vd fs => { rsvHi := 0#16, op := 1#4, d := BitVec.ofFin vd, s1 := BitVec.ofFin fs, s2 := 0#3, rsvLo := 0#3 }
  | .decode fd vs => { rsvHi := 0#16, op := 2#4, d := BitVec.ofFin fd, s1 := BitVec.ofFin vs, s2 := 0#3, rsvLo := 0#3 }
  | .add vd va vb =>
    { rsvHi := 0#16, op := 3#4, d := BitVec.ofFin vd, s1 := BitVec.ofFin va, s2 := BitVec.ofFin vb, rsvLo := 0#3 }
  | .addAssign vd vb => { rsvHi := 0#16, op := 4#4, d := BitVec.ofFin vd, s1 := BitVec.ofFin vb, s2 := 0#3, rsvLo := 0#3 }

/-- The encoder puts every field where R81 has it. -/
def EncodedFields.Statement (i : Instr) : Prop := CmdFields.ofWord (encode i) = commandFields i

theorem EncodedFields.encode (vd : VRegNum) (fs : FrameNum) : EncodedFields.Statement (.encode vd fs) := by
  unfold EncodedFields.Statement
  revert vd fs
  decide

theorem EncodedFields.decode (fd : FrameNum) (vs : VRegNum) : EncodedFields.Statement (.decode fd vs) := by
  unfold EncodedFields.Statement
  revert fd vs
  decide

theorem EncodedFields.add (vd va vb : VRegNum) : EncodedFields.Statement (.add vd va vb) := by
  unfold EncodedFields.Statement
  revert vd va vb
  decide

theorem EncodedFields.addAssign (vd vb : VRegNum) : EncodedFields.Statement (.addAssign vd vb) := by
  unfold EncodedFields.Statement
  revert vd vb
  decide

end Sys2Proof.Laws
end

