-- ==== Sys2Proof/Laws/Planes.lean ====
section
/-! SUPPORT. The laws of planes: bit by bit, what the encoder and the adder give. -/

namespace Sys2Proof.Machine

/-- Two BitPlaneVectors with the same bits are the same. -/
theorem planes_ext {X Y : BitPlaneVector}
    (h : ∀ (b : Fin 8) (i : Fin 512), X[b].getLsbD i.val = Y[b].getLsbD i.val) : X = Y := by
  apply Vector.ext
  intro b hb
  apply BitVec.eq_of_getLsbD_eq
  intro i hi
  exact h ⟨b, hb⟩ ⟨i, hi⟩

/-- The bits the encoder gives (R100). -/
theorem encodePlanes_getLsbD (x : ByteArray512) (b : Fin 8) (i : Fin 512) :
    (encodePlanes x)[b].getLsbD i.val = (x i).getLsbD b.val := by
  simp [encodePlanes, BitVec.getLsbD_ofFnLE, -BitVec.getLsbD_eq_getElem]

/-- The planes the adder gives (R120). -/
theorem addPlanes_getElem (A B : BitPlaneVector) (b : Nat) (h : b < 8) :
    (addPlanes A B)[b] = sumPlane A B b h := by
  simp [addPlanes]

/-- A sum of eight weighted bits is the byte of those bits. -/
theorem weighted_bits_sum (f : Fin 8 → Bool) :
    ((List.finRange 8).map fun b => (f b).toNat * 2 ^ b.val).sum = (BitVec.ofFnLE f).toNat := by
  revert f
  decide +kernel

/-- The byte the decoder gives, as its eight bits (R103). -/
theorem decodePlanes_eq_bits (X : BitPlaneVector) (i : Fin 512) :
    decodePlanes X i = BitVec.ofFnLE fun b : Fin 8 => X[b].getLsbD i.val := by
  unfold decodePlanes
  rw [weighted_bits_sum (fun b => X[b].getLsbD i.val), BitVec.ofNat_toNat, BitVec.setWidth_eq]

end Sys2Proof.Machine
end

