-- ==== Sys2Proof/Tests/Slice0.lean ====
section
/-! SUPPORT. Tests against the vectors of spec/95_test_vectors.md (each names its row) and the witnesses of the
obligations' hypotheses. -/

namespace Sys2Proof.Tests

open Sys2Proof Sys2Proof.Machine

/-! ### Builders -/

/-- A vector whose element 0 is `n` and whose other elements are 0. -/
def lane0 (n : Byte) : BitPlaneVector := Vector.ofFn fun b => if n.getLsbD b.val then 1#512 else 0#512

/-- The registers with the listed ones valid. -/
def regs (l : List (VRegNum × BitPlaneVector)) : Vector VReg 8 :=
  l.foldl (fun v p => v.set p.1 { valid := true, planes := p.2 }) (Vector.replicate 8 VReg.empty)

/-- A state after reset with these registers valid. -/
def withRegs (l : List (VRegNum × BitPlaneVector)) : State := { State.reset with vregs := regs l }

/-- The same with a command in flight. -/
def inFlight (i : Instr) (l : List (VRegNum × BitPlaneVector)) : State :=
  { withRegs l with inFlight := some (encode i) }

/-- A reading of the next state, if there is one. -/
def after {α : Type} (o : Host.Outcome State Fault Refusal) (f : State → α) : Option α :=
  match o with
  | .next s => some (f s)
  | _ => none

/-! ### Well-formedness: an ill-formed term for each check -/

theorem test_wellFormed_words : wellFormedWord 0x00001FC0#32 = true ∧ wellFormedWord 0x00003038#32 = true := by decide
theorem test_illFormed_opcode : wellFormedWord 0x00000000#32 = false ∧ wellFormedWord 0x00005000#32 = false := by decide
theorem test_illFormed_rsvHi : wellFormedWord 0x80001000#32 = false ∧ wellFormedWord 0x00011000#32 = false := by decide
theorem test_illFormed_rsvLo : wellFormedWord 0x00001001#32 = false ∧ wellFormedWord 0x00003004#32 = false := by decide
theorem test_illFormed_s2 : wellFormedWord 0x00002038#32 = false ∧ wellFormedWord 0x00004008#32 = false := by decide
theorem test_wellFormed_access : (HostAccess.rd16 0x1002).wellFormed = true ∧ (HostAccess.wr8 0x1FFF 0#8).wellFormed = true := by
  decide
/-- H4. -/
theorem test_illFormed_misaligned : (HostAccess.rd32 0x1001).aligned = false ∧ (HostAccess.rd32 0x1001).wellFormed = false := by
  decide
/-- H5. -/
theorem test_illFormed_narrow : (HostAccess.wr16 0x0000 0#16).wideEnough = false ∧ (HostAccess.wr16 0x0000 0#16).wellFormed = false := by
  decide
theorem test_illFormed_outside : (HostAccess.rd8 0x2000).inWindow = false ∧ (HostAccess.rd8 0x2000).wellFormed = false := by decide

/-! ### Decoding: words written out from the encoding tables (95, 2.1) -/

theorem test_decode_encode_words : decodeWord 0b00000000000000000001001000000000#32 = .ok (.encode 1 0)
    ∧ decodeWord 0x00001000#32 = .ok (.encode 0 0) ∧ decodeWord 0x00001FC0#32 = .ok (.encode 7 7) := by decide
theorem test_decode_decode_words : decodeWord 0b00000000000000000010010010000000#32 = .ok (.decode 2 2)
    ∧ decodeWord 0x00002640#32 = .ok (.decode 3 1) ∧ decodeWord 0x00002FC0#32 = .ok (.decode 7 7) := by decide
theorem test_decode_add_words : decodeWord 0b00000000000000000011010000001000#32 = .ok (.add 2 0 1)
    ∧ decodeWord 0x00003000#32 = .ok (.add 0 0 0) ∧ decodeWord 0x00003038#32 = .ok (.add 0 0 7)
    ∧ decodeWord 0x00003FF8#32 = .ok (.add 7 7 7) := by decide
theorem test_decode_addAssign_words : decodeWord 0b00000000000000000100011101000000#32 = .ok (.addAssign 3 5)
    ∧ decodeWord 0x00004000#32 = .ok (.addAssign 0 0) := by decide
theorem test_decode_illegal_opcodes :
    [0x00000000#32, 0x00005000#32, 0x0000F000#32, 0xFFFFFFFF#32, 0x00010000#32].map decodeWord
      = List.replicate 5 (.error .illegalOpcode) := by decide
theorem test_decode_reserved_bits :
    [0x00011000#32, 0x80001000#32, 0x00001001#32, 0x00001008#32, 0x00002038#32, 0x00004008#32, 0x00003004#32].map decodeWord
      = List.replicate 7 (.error .reservedBits) := by decide
theorem test_decodeTableWord : decodeTableWord 32 0x00004740 = some (.addAssign 3 5) ∧ decodeTableWord 32 0x00001008 = none := by
  decide
theorem test_encode_words : encode (.decode 3 1) = 0x00002640#32 ∧ encode (.addAssign 3 5) = 0x00004740#32 := by decide

/-! ### Assembler text (R87) -/

theorem test_assemble_comment : assembleLine "add_assign v3,v5  # c".toList = .ok (some (.cmd (.addAssign 3 5))) := by decide
theorem test_assemble_wrong_kind : assembleLine "encode f1, v0".toList = .error .badOperands := by decide
theorem test_assemble_word : assembleLine ".word 0x00001008".toList = .ok (some (.word 0x00001008#32)) := by decide

/-! ### Completion of each command -/

/-- E3: `x[0] = 0x05`, `x[1] = 0x80`, the rest of frame 0 zero. -/
def frameE3 : State :=
  { inFlight (.encode 1 0) [] with buf := cellsFrom 0 (0x05#8 :: 0x80#8 :: List.replicate 510 0#8) }

theorem test_encode_E3 : after (exec (.encode 1 0) frameE3)
    (fun t => ((t.readV 1)[0], (t.readV 1)[2], (t.readV 1)[7], (t.readV 1)[4], t.isValid 1, t.busy))
      = some (0x1#512, 0x1#512, 0x2#512, 0#512, true, false) := by decide +kernel

/-- D4: `P7 = 0x1`, the other planes 0; frame 3 starts at byte 1536, ends at 2047. -/
theorem test_decode_D4 : after (exec (.decode 3 1) (inFlight (.decode 3 1) [(1, lane0 0x80#8)]))
    (fun t => (t.bufByte 1536, t.bufByte 1537, t.bufByte 2047, t.buf.length, t.isValid 1, t.busy))
      = some (0x80#8, 0#8, 0#8, 512, true, false) := by decide +kernel

/-- 2.4, every row: lane 0 of the sum. -/
theorem test_add_lane_table :
    [(0, 0, 0), (1, 1, 2), (255, 1, 0), (255, 255, 254), (128, 128, 0), (127, 1, 128), (250, 10, 4), (10, 250, 4),
      (85, 170, 255), (15, 1, 16), (200, 100, 44), (129, 127, 0)].all (fun r : Byte × Byte × Byte =>
        addPlanes (lane0 r.1) (lane0 r.2.1) == lane0 r.2.2) = true := by decide +kernel

/-- R124's example: 250 + 10 into V2, the sources unchanged. -/
theorem test_add_completes : after (exec (.add 2 0 1) (inFlight (.add 2 0 1) [(0, lane0 250#8), (1, lane0 10#8)]))
    (fun t => (t.readV 2, t.readV 0, t.readV 1, t.isValid 2, t.isValid 3, t.busy))
      = some (lane0 4#8, lane0 250#8, lane0 10#8, true, false, false) := by decide +kernel

/-- R125's example: `0xFF + 0x01` in V3, V5 unchanged; and doubling in place (A4). -/
theorem test_addAssign_completes : after (exec (.addAssign 3 5) (inFlight (.addAssign 3 5) [(3, lane0 0xFF#8), (5, lane0 1#8)]))
    (fun t => (t.readV 3, t.readV 5, t.isValid 3, t.busy)) = some (lane0 0#8, lane0 1#8, true, false) := by decide +kernel
theorem test_addAssign_aliased : after (exec (.addAssign 0 0) (inFlight (.addAssign 0 0) [(0, lane0 200#8)]))
    (fun t => t.readV 0) = some (lane0 144#8) := by decide +kernel

/-- While another command is in flight a command does nothing (log 5). -/
theorem test_other_in_flight_held : exec (.encode 0 0) (inFlight (.encode 1 0) []) = .next (inFlight (.encode 1 0) []) := by
  rw [exec_of_other _ _ (w := encode (.encode 1 0)) rfl (by decide)]

/-! ### Issue and faults (95, 2.6) -/

/-- F2, as the host sees it: `add v0, v0, v1` after reset. -/
theorem test_F2_unwritten : after (commandWrite 0x00003008#32 State.reset) (fun t => (t.status, t.faultCmd, t.busy))
    = some (0x00000032#32, 0x00003008#32, false) := by decide
/-- F3: discarded. -/
theorem test_F3_discarded : after (commandWrite 0x00001000#32 (State.reset.enterFault .unwrittenVreg 0x00003008#32))
    (fun t => (t.status, t.faultCmd)) = some (0x00000032#32, 0x00003008#32) := by decide
/-- F4. -/
theorem test_F4_fclr : after (performAccess (.wr32 0xC 1#32) (State.reset.enterFault .unwrittenVreg 0x00003008#32))
    (fun t => (t.status, t.faultCmd)) = some (0#32, 0x00003008#32) := by decide
/-- F5 and F6. -/
theorem test_F5_F6 : after (commandWrite 0x00001008#32 State.reset) (fun t => (t.status, t.faultCmd)) = some (0x22#32, 0x00001008#32)
    ∧ after (commandWrite 0xFFFFFFFF#32 State.reset) (fun t => (t.status, t.faultCmd)) = some (0x12#32, 0xFFFFFFFF#32) := by decide
/-- A8: the destination of ADD_ASSIGN is read. -/
theorem test_A8_destination_read : after (exec (.addAssign 3 5) (withRegs [(5, lane0 1#8)]))
    (fun t => (t.fault, t.cause, t.isValid 3)) = some (true, .unwrittenVreg, false) := by decide
/-- F9: BUSY while in flight, VALID as before. -/
theorem test_F9_status_busy : (inFlight (.encode 0 0) []).status = 0x00000001#32 := by decide

/-! ### The bus (95, 2.7) -/

/-- H1 to H3. -/
theorem test_H1_H2_H3 : after (performAccess (.wr32 0x1000 0x04030201#32) State.reset) (fun t =>
    (t.bufByte 0, t.bufByte 3, busRead t 0x1002 1, busRead t 0x1002 2)) = some (1#8, 4#8, 3#32, 0x0403#32) := by decide
/-- H4 and H5. -/
theorem test_H4_H5 : performAccess (.rd32 0x1001) State.reset = .refused .misalignedAccess
    ∧ performAccess (.wr16 0x0000 0#16) State.reset = .refused .narrowControlAccess := ⟨rfl, rfl⟩
/-- H8: STATUS is read-only. -/
theorem test_H8 : after (performAccess (.wr32 0x4 0xFFFFFFFF#32) State.reset) (fun t => (t.status, t.inFlight)) = some (0#32, none) := by
  decide
/-- H9: a frame read is held while a command is in flight. -/
theorem test_H9_held : ({ inFlight (.encode 0 0) [] with script := [.rd32 0x1000], turns := [.host] } : State).mover = .block := by
  decide
/-- H11: element 511 of frame F7. -/
theorem test_H11 : after (performAccess (.wr8 0x1FFF 0x7F#8) State.reset) (fun t => t.bufByte 4095) = some 0x7F#8 := by decide
/-- RS2: a DECODE in flight at reset has no effect. -/
theorem test_RS2 : after (step { inFlight (.decode 0 1) [(1, lane0 1#8)] with turns := [.reset true] })
    (fun t => (t.busy, t.isValid 1, t.buf, t.status)) = some (false, false, [], 0#32) := by decide
/-- R171: a frame read held at reset is gone; one the host has not made yet stays (log 8). -/
theorem test_held_access_at_reset : [true, false].map (fun made =>
    after (step { inFlight (.encode 0 0) [] with script := [.rd32 0x1000], turns := [.reset made] })
      (fun t => (t.script, t.responses)))
      = [some ([], [.platformDefined]), some ([.rd32 0x1000], [])] := by decide
/-- R58: no reset takes an ill-formed access away, and it is refused while BUSY (log 9). -/
theorem test_illFormed_never_held :
    after (step { inFlight (.encode 0 0) [] with script := [.rd32 0x1001], turns := [.reset true] })
      (fun t => (t.script, t.responses)) = some ([.rd32 0x1001], [])
    ∧ step { inFlight (.encode 0 0) [] with script := [.wr8 0x0 0#8], turns := [.host] } = .refused .narrowControlAccess :=
  ⟨by decide, rfl⟩
/-- A placed word runs at the very next step. -/
theorem test_withFetchWord : after (step (State.reset.withFetchWord 32 0x00001200)) (fun t => (t.inFlight, t.busy, t.fault))
    = some (some 0x00001200#32, true, false) := by decide

/-! ### Witnesses: states that meet the hypotheses of the obligations -/

/-- A state with a command in flight that meets the invariant, whatever the host's accesses and the turns. -/
theorem busy_inv (script : List HostAccess) (turns : List Turn) :
    ({ inFlight (.encode 1 0) [] with script := script, turns := turns } : State).Inv where
  buffer := ⟨List.Pairwise.nil, nofun⟩
  causeIffFault := ⟨fun _ => rfl, fun _ => rfl⟩
  busyNoFault _ := rfl
  inFlightChecked := by
    rintro w hw
    cases hw
    exact ⟨.encode 1 0, by decide, by simp [sourceRegs]⟩
  emptyIsZero k _ := (State.isValid_of_replicate rfl k).2
  faultIsNewest := nofun
  faultCmdFaulted := .inl rfl

/-- After reset with any accesses to come the invariant holds. -/
theorem idle_inv (script : List HostAccess) (turns : List Turn) :
    ({ State.reset with script := script, turns := turns } : State).Inv where
  buffer := ⟨List.Pairwise.nil, nofun⟩
  causeIffFault := ⟨fun _ => rfl, fun _ => rfl⟩
  busyNoFault _ := rfl
  inFlightChecked := nofun
  emptyIsZero k _ := (State.isValid_of_replicate rfl k).2
  faultIsNewest := nofun
  faultCmdFaulted := .inl rfl

theorem witness_StepKeepsInvariant :
    ∃ s t : State, s.Inv ∧ step s = .next t ∧ t.busy = true :=
  ⟨_, _, idle_inv [.wr32 0x0 0x00001200#32] [], rfl, by decide⟩
/-- With the held access made, and not made, when reset is asserted. -/
theorem witness_PlatformResetEffect : ∀ m : Bool, ∃ s : State, s.turns.head? = some (.reset m) ∧ s.busy = true ∧ s.hostHeld = true :=
  fun m => ⟨{ inFlight (.encode 1 0) [] with script := [.rd32 0x1000], turns := [.reset m] }, rfl, rfl, rfl⟩
theorem witness_DecodeFollowsPatternTable :
    (patternRow .add).matchesWord 0x00003FF8#32 = true ∧ (patternRow .addAssign).matchesWord 0x00004000#32 = true := by decide
/-- The last clause, at the first and the last good opcode. -/
theorem witness_DecodingFunction : ∃ v w : Word, v.extractLsb' 12 4 = 1#4 ∧ v.extractLsb' 3 3 = 0#3 ∧ w.extractLsb' 12 4 = 4#4
    ∧ w.extractLsb' 3 3 = 0#3 ∧ ∀ x, (x = v ∨ x = w) → x.extractLsb' 16 16 = 0#16 ∧ x.extractLsb' 0 3 = 0#3 :=
  ⟨0x00001FC0#32, 0x00004FC0#32, by decide, by decide, by decide, by decide, by rintro _ (rfl | rfl) <;> decide⟩
theorem witness_AdderLaneLaw : ∃ A A' B B' : BitPlaneVector, A ≠ A'
    ∧ ∀ b : Fin 8, A[b].getLsbD 1 = A'[b].getLsbD 1 ∧ B[b].getLsbD 1 = B'[b].getLsbD 1 :=
  ⟨lane0 1#8, lane0 2#8, lane0 3#8, lane0 4#8, by decide +kernel⟩
theorem witness_AdderCommutative : ∃ s : State, s.ready ∧ s.isValid 0 = true ∧ s.isValid 1 = true :=
  ⟨withRegs [(0, lane0 1#8), (1, lane0 2#8)], ⟨rfl, rfl⟩, by decide, by decide⟩
/-- All four clauses: V0 and V7 are valid, the registers at the ends of the range. -/
theorem witness_CommandsIssue : ∃ s : State, s.ready ∧ s.isValid 0 = true ∧ s.isValid 7 = true :=
  ⟨withRegs [(0, lane0 1#8), (7, lane0 2#8)], ⟨rfl, rfl⟩, by decide, by decide⟩
/-- All three clauses, by the first source and by the second. -/
theorem witness_UnwrittenSourceFaults : ∃ s : State, s.ready ∧ s.isValid 0 = false ∧ s.isValid 7 = true :=
  ⟨withRegs [(7, lane0 2#8)], ⟨rfl, rfl⟩, by decide, by decide⟩
/-- Every branch, at the opcodes where they meet: 0 and 5, each must-be-zero field, an unwritten source, an issue. -/
theorem witness_IssueChecksInOrder : ∃ s : State, s.ready
    ∧ after (busWrite s 0x0 4 0x00000FFF#32) (fun t => t.cause) = some .illegalOpcode
    ∧ after (busWrite s 0x0 4 0x00005000#32) (fun t => t.cause) = some .illegalOpcode
    ∧ after (busWrite s 0x0 4 0x00014000#32) (fun t => t.cause) = some .reservedBits
    ∧ after (busWrite s 0x0 4 0x00004008#32) (fun t => t.cause) = some .reservedBits
    ∧ after (busWrite s 0x0 4 0x00003001#32) (fun t => t.cause) = some .reservedBits
    ∧ after (busWrite s 0x0 4 0x00001004#32) (fun t => t.cause) = some .reservedBits
    ∧ after (busWrite s 0x0 4 0x00003008#32) (fun t => t.cause) = some .unwrittenVreg
    ∧ after (busWrite s 0x0 4 0x00004000#32) (fun t => (t.cause, t.inFlight)) = some (.noFault, some 0x00004000#32) :=
  ⟨withRegs [(0, lane0 1#8)], ⟨rfl, rfl⟩, by decide⟩
theorem witness_EncodeCompletes : ∃ s : State, s.inFlight = some (encode (.encode 7 7)) := ⟨inFlight (.encode 7 7) [], rfl⟩
theorem witness_DecodeCompletes : ∃ s : State, s.inFlight = some (encode (.decode 7 0)) ∧ s.isValid 0 = true :=
  ⟨inFlight (.decode 7 0) [(0, lane0 1#8)], rfl, by decide⟩
theorem witness_AddCompletes : ∃ s : State, s.inFlight = some (encode (.add 0 0 7)) ∧ s.isValid 0 = true ∧ s.isValid 7 = true :=
  ⟨inFlight (.add 0 0 7) [(0, lane0 1#8), (7, lane0 1#8)], rfl, by decide, by decide⟩
theorem witness_AddAssignCompletes : ∃ s : State, s.inFlight = some (encode (.addAssign 0 7)) ∧ s.isValid 0 = true ∧ s.isValid 7 = true :=
  ⟨inFlight (.addAssign 0 7) [(0, lane0 1#8), (7, lane0 1#8)], rfl, by decide, by decide⟩
theorem witness_DecodeKeepsRegisters : ∃ s : State, s.ready ∧ s.isValid 1 = true :=
  ⟨withRegs [(1, lane0 3#8)], ⟨rfl, rfl⟩, by decide⟩
/-- The two states of the last clause agree on V0 and V1 and differ in V2. -/
theorem witness_AddAssignIsAddInPlace : ∃ s s' : State, s.ready ∧ s.isValid 0 = true ∧ s.isValid 1 = true
    ∧ s'.ready ∧ s'.isValid 0 = true ∧ s'.isValid 1 = true ∧ s'.readV 0 = s.readV 0 ∧ s'.readV 1 = s.readV 1 ∧ s ≠ s'
    ∧ ∃ t', perform (.addAssign 0 1) s' = .next t' :=
  ⟨withRegs [(0, lane0 1#8), (1, lane0 2#8)], withRegs [(0, lane0 1#8), (1, lane0 2#8), (2, lane0 3#8)],
    ⟨rfl, rfl⟩, by decide, by decide, ⟨rfl, rfl⟩, by decide, by decide, rfl, rfl,
    fun h => absurd (congrArg (·.isValid 2) h) (by decide), _, rfl⟩
theorem witness_FrameRoundTrip : State.reset.ready := ⟨rfl, rfl⟩
theorem witness_RegisterRoundTrip : ∃ s : State, s.ready ∧ s.isValid 7 = true :=
  ⟨withRegs [(7, lane0 3#8)], ⟨rfl, rfl⟩, by decide⟩
theorem witness_CommandsDiscardedWhileFaulted : ∃ s : State, s.inFlight = none ∧ s.fault = true
    ∧ s.script = .wr32 0x0 0x00001000#32 :: [] ∧ s.resetTurn = false :=
  ⟨{ State.reset.enterFault .illegalOpcode 0#32 with script := [.wr32 0x0 0x00001000#32] }, by decide⟩
/-- The clauses of FCLR set, FCLR clear, and no fault recorded. -/
theorem witness_FclrClearsFault : (1#32).getLsbD 0 = true ∧ (0xFFFFFFFE#32).getLsbD 0 = false
    ∧ (State.reset.enterFault .illegalOpcode 0#32).inFlight = none ∧ ∃ s : State, s.Inv ∧ s.fault = false :=
  ⟨by decide, by decide, rfl, _, idle_inv [] [], rfl⟩
theorem witness_FaultsDoNotNest : ∃ s t : State, s.fault = true ∧ step s = .next t ∧ t.fault = true :=
  ⟨{ State.reset.enterFault .illegalOpcode 0#32 with script := [.wr32 0x0 0x00005000#32] }, _, rfl, rfl, rfl⟩
theorem witness_FaultCmdWrittenByFaultEntry : ∃ s t : State, step s = .next t ∧ t.faultCmd ≠ s.faultCmd :=
  ⟨{ State.reset with script := [.wr32 0x0 0x00005000#32] }, _, rfl, by decide⟩
theorem witness_CompletionRaisesNoFault : ∃ s : State, s.Inv ∧ s.busy = true := ⟨_, busy_inv [] [], rfl⟩
theorem witness_FaultRecordOnlyGrows : ∃ s t : State, step s = .next t ∧ t.faultLog ≠ s.faultLog :=
  ⟨{ State.reset with script := [.wr32 0x0 0x00005000#32] }, _, rfl, by decide⟩
theorem witness_StepIssuesWrittenCommand : ∃ s : State, s.inFlight = none ∧ s.script = .wr32 0x0 0x00003FF8#32 :: []
    ∧ s.resetTurn = false ∧ decodeWord 0x00003FF8#32 = .ok (.add 7 7 7) :=
  ⟨{ State.reset with script := [.wr32 0x0 0x00003FF8#32] }, by decide⟩
/-- Both ways the block comes to move: the turn is not the host's, and the host's access is held. -/
theorem witness_StepCompletesCommandInFlight :
    (∃ s : State, s.inFlight = some 0x00001200#32 ∧ decodeWord 0x00001200#32 = .ok (.encode 1 0)
      ∧ s.resetTurn = false ∧ s.turns.head? ≠ some .host)
    ∧ ∃ s : State, s.inFlight = some 0x00001200#32 ∧ s.turns.head? = some .host ∧ s.hostEnabled = false :=
  ⟨⟨inFlight (.encode 1 0) [], by decide⟩,
    ⟨{ inFlight (.encode 1 0) [] with script := [.rd32 0x1000], turns := [.host] }, by decide⟩⟩
theorem witness_StepRunsPlacedWord : decodeWord 0x00004740#32 = .ok (.addAssign 3 5) := by decide
/-- Both clauses at the ends of their ranges: CMD, CTRL and offset 0x1000 are held, offset 0xFFF and a read of
CMD are not. -/
theorem witness_InterlockHoldsAccesses :
    (∀ a ∈ [HostAccess.wr32 0x0 0#32, .wr32 0xC 1#32, .rd8 0x1000, .wr8 0x1FFF 0#8], a.wellFormed = true ∧ ∃ s : State, s.busy = true ∧ s.script = [a]
      ∧ s.resetTurn = false ∧ ((∃ w, a = .wr32 0x0 w ∨ a = .wr32 0xC w) ∨ 0x1000 ≤ a.offset))
    ∧ ∀ a ∈ [HostAccess.rd32 0x0, .rd32 0xC, .wr32 0x4 0#32, .wr8 0xFFF 0#8], a.wellFormed = true ∧ ∃ s : State, s.busy = true ∧ s.script = [a]
      ∧ (a.written = none ∨ (a.offset ≠ 0x0 ∧ a.offset ≠ 0xC)) ∧ a.offset < 0x1000 ∧ s.turns.head? = some .host := by
  constructor <;> intro a ha <;> simp only [List.mem_cons, List.not_mem_nil, or_false] at ha
  · refine ⟨by rcases ha with rfl | rfl | rfl | rfl <;> decide, { inFlight (.encode 1 0) [] with script := [a] }, rfl, rfl, rfl, ?_⟩
    rcases ha with rfl | rfl | rfl | rfl
    · exact .inl ⟨_, .inl rfl⟩
    · exact .inl ⟨_, .inr rfl⟩
    · exact .inr (by decide)
    · exact .inr (by decide)
  · refine ⟨by rcases ha with rfl | rfl | rfl | rfl <;> decide,
      { inFlight (.encode 1 0) [] with script := [a], turns := [.host] }, rfl, rfl, ?_⟩
    rcases ha with rfl | rfl | rfl | rfl <;> decide
theorem witness_CompletionAlwaysHappens : ∃ s : State, s.Inv ∧ s.busy = true ∧ s.turns.length = 2 :=
  ⟨_, busy_inv [.rd32 0x4, .rd32 0x4] [.host, .host], rfl, rfl⟩
theorem witness_ReadsDuringCommand :
    (∃ s : State, s.Inv ∧ s.busy = true ∧ s.turns.head? = some .host ∧ s.script = .rd32 0x4 :: [])
    ∧ ∃ s : State, s.Inv ∧ s.busy = true ∧ s.turns.head? = some .host ∧ s.script = .rd32 0x8 :: [] :=
  ⟨⟨_, busy_inv [.rd32 0x4] [.host], rfl, rfl, rfl⟩, ⟨_, busy_inv [.rd32 0x8] [.host], rfl, rfl, rfl⟩⟩
/-- The clauses in order: an access with nothing in flight, a script changed by an access and by a reset that
finds it held, and a script left as it was. -/
theorem witness_HostOrderKept :
    (∃ s : State, s.busy = false ∧ s.script = [.wr32 0xC 1#32] ∧ s.resetTurn = false)
    ∧ (∃ s t : State, step s = .next t ∧ t.script ≠ s.script ∧ s.resetTurn = false)
    ∧ (∃ s t : State, step s = .next t ∧ t.script ≠ s.script ∧ s.resetTurn = true)
    ∧ ∃ s t : State, step s = .next t ∧ t.script = s.script ∧ s.script ≠ [] :=
  ⟨⟨{ State.reset with script := [.wr32 0xC 1#32] }, rfl, rfl, rfl⟩,
    ⟨{ State.reset with script := [.rd32 0x4] }, _, rfl, by decide, rfl⟩,
    ⟨{ inFlight (.encode 1 0) [] with script := [.rd32 0x1000], turns := [.reset true] }, _, rfl, by decide, rfl⟩,
    ⟨{ inFlight (.encode 1 0) [] with script := [.rd32 0x1000] }, _, rfl, rfl, by decide⟩⟩
/-- Both clauses: a VALID bit cleared, by reset, and a register changed, by a completion. -/
theorem witness_RegistersChangeOnlyAtCompletion :
    (∃ s t : State, step s = .next t ∧ s.isValid 0 = true ∧ t.isValid 0 = false)
    ∧ ∃ s t : State, step s = .next t ∧ ¬sameReg s t 1 :=
  ⟨⟨{ withRegs [(0, lane0 1#8)] with turns := [.reset true] }, _, rfl, by decide, by decide⟩,
    ⟨inFlight (.encode 1 0) [], _, rfl, fun h => absurd h.1 (by decide +kernel)⟩⟩
/-- A byte changed by a host write, and by the completion of a DECODE: the last byte of frame 1. -/
theorem witness_BufferChangesOnlyByDecodeOrHost :
    (∃ (s t : State) (x : Nat), step s = .next t ∧ t.bufByte x ≠ s.bufByte x ∧ s.busy = false)
    ∧ ∃ (s t : State) (x : Nat), step s = .next t ∧ t.bufByte x ≠ s.bufByte x ∧ s.inFlight = some (encode (.decode 1 0)) :=
  ⟨⟨{ State.reset with buf := [(0, 1#8)], script := [.wr8 0x1000 2#8] }, _, 0, rfl, by decide, rfl⟩,
    ⟨{ inFlight (.decode 1 0) [(0, lane0 0#8)] with buf := [(1023, 1#8)] }, _, 1023, rfl, by decide +kernel, rfl⟩⟩
theorem witness_RegisterWriteIsolated : (7 : VRegNum) ≠ 0 := by decide
/-- Each width, and the last byte of the buffer. -/
theorem witness_HostBytesLittleEndian : (0x1000 ≤ 0x1000 ∧ (4 = 1 ∨ 4 = 2 ∨ 4 = 4)) ∧ 0x1000 ≤ 0x1FFE ∧ 0x1000 ≤ 0x1FFF
    ∧ busRead { State.reset with buf := [(4095, 9#8)] } 0x1FFF 1 = 9#32 := by decide
theorem witness_StatusRegister : ∃ s : State, s.Inv ∧ s.fault = false ∧ s.busy = true := ⟨_, busy_inv [] [], rfl, rfl⟩
/-- The first and the last reserved offset, at each width, and a write to CTRL without FCLR. -/
theorem witness_ReservedOffsetsReadZero :
    (∀ a ∈ [HostAccess.rd8 0x10, .rd32 0x10, .wr16 0xFFE 5#16, .wr32 0xFFC 5#32, .rd8 0xFFF],
      0x10 ≤ a.offset ∧ a.offset < 0x1000 ∧ a.aligned = true) ∧ (0xFFFFFFFE#32).getLsbD 0 = false := by decide
theorem witness_ReadsHaveNoSideEffect : ∀ a ∈ [HostAccess.rd32 0x0, .rd32 0x1FFC, .rd16 0x1002, .rd8 0x1FFF],
    a.wellFormed = true ∧ a.written = none := by decide
/-- Every clause: an ill-formed access made at the host's turn while busy, with nothing in flight, and met by a
step that goes on. -/
theorem witness_RefusedAccessesAreIllFormed : (HostAccess.rd32 0x1001).wellFormed = false
    ∧ (∃ s : State, s.script = [.rd32 0x1001] ∧ s.turns.head? = some .host ∧ s.busy = true)
    ∧ (∃ s : State, s.script = [.rd32 0x1001] ∧ s.busy = false ∧ s.resetTurn = false)
    ∧ ∃ s t : State, s.script = [.rd32 0x1001] ∧ step s = .next t :=
  ⟨by decide, ⟨{ inFlight (.encode 1 0) [] with script := [.rd32 0x1001], turns := [.host] }, rfl, rfl, rfl⟩,
    ⟨{ State.reset with script := [.rd32 0x1001] }, rfl, rfl, rfl⟩,
    ⟨{ inFlight (.encode 1 0) [] with script := [.rd32 0x1001], turns := [.reset true] }, _, rfl, rfl⟩⟩
theorem witness_FillAndDumpMoveWholeFrames : State.reset.busy = false := rfl

end Sys2Proof.Tests
end

section
/-! The BitPlaneVector value and the vector registers: the decoder's bits, the correspondence with byte arrays
(R20, R21), and what a register write leaves unchanged (R27). -/

namespace Sys2Proof.Machine

/-! ### The correspondence of BitPlaneVectors and byte arrays -/

/-- The bits the decoder gives (R20, R103). -/
theorem decodePlanes_getLsbD (X : BitPlaneVector) (b : Fin 8) (i : Fin 512) :
    (decodePlanes X i).getLsbD b.val = X[b].getLsbD i.val := by
  rw [decodePlanes_eq_bits, BitVec.getLsbD_ofFnLE, dif_pos b.isLt]

/-- The decoder's byte is the weighted sum of its bits, which is below 256: nothing is truncated (R21). -/
theorem decodePlanes_toNat (X : BitPlaneVector) (i : Fin 512) : (decodePlanes X i).toNat = laneValue X i := by
  rw [decodePlanes_eq_bits]
  exact (weighted_bits_sum fun b => X[b].getLsbD i.val).symm

theorem encodePlanes_decodePlanes (X : BitPlaneVector) : encodePlanes (decodePlanes X) = X :=
  planes_ext fun b i => by rw [encodePlanes_getLsbD, decodePlanes_getLsbD]

theorem decodePlanes_encodePlanes (x : ByteArray512) : decodePlanes (encodePlanes x) = x := by
  funext i
  apply BitVec.eq_of_getLsbD_eq
  intro b hb
  exact (decodePlanes_getLsbD _ ⟨b, hb⟩ i).trans (encodePlanes_getLsbD x ⟨b, hb⟩ i)

/-- The encoder is the two-sided inverse. -/
theorem decodePlanes_bijective : Function.Bijective decodePlanes :=
  Function.bijective_iff_has_inverse.mpr ⟨encodePlanes, encodePlanes_decodePlanes, decodePlanes_encodePlanes⟩

/-! ### Registers that a write does not name -/

theorem State.writeV_readV_other (s : State) {j k : VRegNum} (X : BitPlaneVector) (h : k ≠ j) :
    (s.writeV j X).readV k = s.readV k :=
  congrArg VReg.planes (s.writeV_reg_other j k X h)

theorem State.writeV_isValid_other (s : State) {j k : VRegNum} (X : BitPlaneVector) (h : k ≠ j) :
    (s.writeV j X).isValid k = s.isValid k :=
  congrArg VReg.valid (s.writeV_reg_other j k X h)

/-! ### The obligations -/

/-- Settles O11: the sum has no truncation, and encoder and decoder undo each other. -/
theorem vectorsAndArraysCorrespond : Obligations.VectorsAndArraysCorrespond :=
  ⟨decodePlanes_toNat, decodePlanes_bijective, encodePlanes_decodePlanes, decodePlanes_encodePlanes⟩

/-- Settles O10, by the decoder's bits. -/
theorem planeBitIsElementBit : Obligations.PlaneBitIsElementBit :=
  fun X b i => (decodePlanes_getLsbD X b i).symm

/-- Settles O45: the written register reads back, and every other one is the same register as before. -/
theorem registerWriteIsolated : Obligations.RegisterWriteIsolated :=
  fun s j X => ⟨s.writeV_readV_same j X,
    fun _ h => ⟨s.writeV_readV_other X h, s.writeV_isValid_other X h⟩⟩

end Sys2Proof.Machine
end

section
/-! The command word: the table of exact patterns (R84) and the decoding function (R86) both come down to the opcode
map and the must-be-zero fields, and the worked encodings (R89). -/

namespace Sys2Proof

/-! ### What the decoder reads from the fields -/

/-- The value of the `OP` field that is an opcode (R83), see `opcodeOf_eq_some_iff`. -/
def Opcode.field : Opcode → BitVec 4
  | .encode => 1#4
  | .decode => 2#4
  | .add => 3#4
  | .addAssign => 4#4

theorem opcodeOf_eq_some_iff (b : BitVec 4) (op : Opcode) : opcodeOf b = some op ↔ b = op.field := by
  cases op with
  | encode => exact opcodeOf_eq_encode_iff b
  | decode => exact opcodeOf_eq_decode_iff b
  | add => exact opcodeOf_eq_add_iff b
  | addAssign => exact opcodeOf_eq_addAssign_iff b

theorem reservedFieldSet_eq_false_iff (op : Opcode) (f : CmdFields) :
    reservedFieldSet op f = false ↔ f.rsvHi = 0#16 ∧ f.rsvLo = 0#3 ∧ (op ≠ .add → f.s2 = 0#3) := by
  simp [reservedFieldSet, and_assoc]

/-- The test for reserved bits, with the exemption of `S2` read off the opcode field (R86). -/
theorem reservedFieldSet_iff {f : CmdFields} {op : Opcode} (h : opcodeOf f.op = some op) :
    reservedFieldSet op f = true ↔ f.rsvHi ≠ 0#16 ∨ f.rsvLo ≠ 0#3 ∨ (f.op ≠ 3#4 ∧ f.s2 ≠ 0#3) := by
  have hadd : op = .add ↔ f.op = 3#4 := by rw [← opcodeOf_eq_add_iff, h, Option.some.injEq]
  simp [reservedFieldSet, ← hadd, or_assoc]

@[simp] theorem opcode_assembleOperands (op : Opcode) (f : CmdFields) : (assembleOperands op f).opcode = op := by
  cases op <;> rfl

/-- The command that the opcode field chooses (R83). -/
theorem assembleOperands_eq_ite {f : CmdFields} {op : Opcode} (h : opcodeOf f.op = some op) :
    assembleOperands op f =
      if f.op = 1#4 then .encode f.d.toFin f.s1.toFin else if f.op = 2#4 then .decode f.d.toFin f.s1.toFin
      else if f.op = 3#4 then .add f.d.toFin f.s1.toFin f.s2.toFin else .addAssign f.d.toFin f.s1.toFin := by
  cases op with
  | encode => simp [assembleOperands, (opcodeOf_eq_encode_iff _).1 h]
  | decode => simp [assembleOperands, (opcodeOf_eq_decode_iff _).1 h]
  | add => simp [assembleOperands, (opcodeOf_eq_add_iff _).1 h]
  | addAssign => simp [assembleOperands, (opcodeOf_eq_addAssign_iff _).1 h]

/-- When a word is a command, and which. -/
theorem decodeWord_eq_ok_iff (w : Word) (i : Instr) :
    decodeWord w = .ok i ↔ opcodeOf (CmdFields.ofWord w).op = some i.opcode
      ∧ reservedFieldSet i.opcode (CmdFields.ofWord w) = false
      ∧ assembleOperands i.opcode (CmdFields.ofWord w) = i := by
  constructor
  · intro h
    rcases decodeWord_cases w with ⟨-, h'⟩ | ⟨-, -, -, h'⟩ | ⟨op, hop, hres, h'⟩
    · simp [h'] at h
    · simp [h'] at h
    · obtain rfl : assembleOperands op (CmdFields.ofWord w) = i := by simpa [h'] using h
      simp [hop, hres]
  · rintro ⟨hop, hres, hi⟩
    simp [decodeWord, hop, hres, hi]

/-! ### The table of exact patterns -/

theorem PatternRow.matchesWord_iff (r : PatternRow) (w : Word) :
    r.matchesWord w = true ↔ w &&& r.mask = r.pattern := beq_iff_eq

/-- A masked comparison of words is six masked comparisons of fields. -/
theorem and_eq_iff_fields (w m p : Word) :
    w &&& m = p ↔
      (CmdFields.ofWord w).rsvHi &&& (CmdFields.ofWord m).rsvHi = (CmdFields.ofWord p).rsvHi
      ∧ (CmdFields.ofWord w).op &&& (CmdFields.ofWord m).op = (CmdFields.ofWord p).op
      ∧ (CmdFields.ofWord w).d &&& (CmdFields.ofWord m).d = (CmdFields.ofWord p).d
      ∧ (CmdFields.ofWord w).s1 &&& (CmdFields.ofWord m).s1 = (CmdFields.ofWord p).s1
      ∧ (CmdFields.ofWord w).s2 &&& (CmdFields.ofWord m).s2 = (CmdFields.ofWord p).s2
      ∧ (CmdFields.ofWord w).rsvLo &&& (CmdFields.ofWord m).rsvLo = (CmdFields.ofWord p).rsvLo := by
  have hfields : w &&& m = p ↔ CmdFields.ofWord (w &&& m) = CmdFields.ofWord p := ⟨fun h => h ▸ rfl, word_ext_fields⟩
  rw [hfields]
  simp [CmdFields.ofWord, BitVec.extractLsb'_and]

/-- The fields of the masks of R84: all ones where the row fixes a field, `S2` of ADD not among them. -/
theorem ofWord_mask (op : Opcode) : CmdFields.ofWord (patternRow op).mask =
    { rsvHi := BitVec.allOnes 16, op := BitVec.allOnes 4, d := 0#3, s1 := 0#3
      s2 := if op = .add then 0#3 else BitVec.allOnes 3, rsvLo := BitVec.allOnes 3 } := by
  cases op <;> decide

/-- The fields of the patterns of R84: nothing but the opcode. -/
theorem ofWord_pattern (op : Opcode) : CmdFields.ofWord (patternRow op).pattern =
    { rsvHi := 0#16, op := op.field, d := 0#3, s1 := 0#3, s2 := 0#3, rsvLo := 0#3 } := by
  cases op <;> decide

/-- A row's masked comparison is the decoder's two tests. -/
theorem patternRow_matchesWord_iff (op : Opcode) (w : Word) :
    (patternRow op).matchesWord w = true ↔ opcodeOf (CmdFields.ofWord w).op = some op
      ∧ reservedFieldSet op (CmdFields.ofWord w) = false := by
  rw [PatternRow.matchesWord_iff, and_eq_iff_fields, ofWord_mask, ofWord_pattern, opcodeOf_eq_some_iff,
    reservedFieldSet_eq_false_iff]
  by_cases hadd : op = .add
  · simp [hadd, -BitVec.reduceAllOnes, and_left_comm]
  · simp [hadd, -BitVec.reduceAllOnes, and_left_comm, and_comm, and_assoc]

theorem patternRow_matchesWord_iff_decodeWord (op : Opcode) (w : Word) :
    (patternRow op).matchesWord w = true ↔ decodeWord w = .ok (assembleOperands op (CmdFields.ofWord w)) := by
  simp [patternRow_matchesWord_iff, decodeWord_eq_ok_iff]

theorem wellFormedWord_iff_exists_row (w : Word) :
    wellFormedWord w = true ↔ ∃ op, (patternRow op).matchesWord w = true := by
  rw [wellFormedWord, List.any_eq_true]
  exact exists_congr fun op => and_iff_right (by cases op <;> simp)

/-- The table and the decoder accept the same words. -/
theorem wellFormedWord_iff_decodes (w : Word) : wellFormedWord w = true ↔ ∃ i, decodeWord w = .ok i := by
  rw [wellFormedWord_iff_exists_row]
  constructor
  · rintro ⟨op, h⟩
    exact ⟨_, (patternRow_matchesWord_iff_decodeWord op w).1 h⟩
  · rintro ⟨i, h⟩
    obtain ⟨hop, hres, -⟩ := (decodeWord_eq_ok_iff w i).1 h
    exact ⟨i.opcode, (patternRow_matchesWord_iff _ w).2 ⟨hop, hres⟩⟩

/-- A word read as a command is also what that command is written as. -/
theorem encode_and_decodeWord {w : Word} {i : Instr} (h : decodeWord w = .ok i) :
    encode i = w ∧ decodeWord w = .ok i :=
  ⟨encode_of_decodeWord h, h⟩

end Sys2Proof

namespace Sys2Proof.Machine

/-! ### The obligations -/

/-- Settles O6: each row is the decoder's tests for its opcode, and a word has one opcode. -/
theorem decodeFollowsPatternTable : Obligations.DecodeFollowsPatternTable := by
  have hrow (op : Opcode) (w : Word) : w &&& (patternRow op).mask = (patternRow op).pattern ↔
      decodeWord w = .ok (assembleOperands op (CmdFields.ofWord w)) :=
    (PatternRow.matchesWord_iff _ w).symm.trans (patternRow_matchesWord_iff_decodeWord op w)
  refine ⟨fun w => ⟨hrow .encode w, hrow .decode w, hrow .add w, hrow .addAssign w⟩, fun w p q hp hq => ?_⟩
  obtain ⟨hopp, -⟩ := (patternRow_matchesWord_iff p w).1 hp
  obtain ⟨hopq, -⟩ := (patternRow_matchesWord_iff q w).1 hq
  exact Option.some.inj (hopp.symm.trans hopq)

/-- Settles O7, by the three answers of the decoder. -/
theorem decodingFunction : Obligations.DecodingFunction := by
  intro w op d s1 s2 badOpcode badReserved
  have hnone : opcodeOf (CmdFields.ofWord w).op = none ↔ badOpcode := opcodeOf_eq_none_iff _
  have hres : ∀ c, opcodeOf (CmdFields.ofWord w).op = some c →
      (reservedFieldSet c (CmdFields.ofWord w) = true ↔ badReserved) := fun _ => reservedFieldSet_iff
  rw [wellFormedWord_iff_decodes]
  rcases decodeWord_cases w with ⟨hop, hdec⟩ | ⟨c, hop, hset, hdec⟩ | ⟨c, hop, hset, hdec⟩
  case inl =>
    have hbad : badOpcode := hnone.1 hop
    simp [hdec, hbad]
  case inr.inl =>
    have hgood : ¬badOpcode := mt hnone.2 (by simp [hop])
    have hbad : badReserved := (hres c hop).1 hset
    simp [hdec, hgood, hbad]
  case inr.inr =>
    have hgood : ¬badOpcode := mt hnone.2 (by simp [hop])
    have hclear : ¬badReserved := mt (hres c hop).2 (by simp [hset])
    refine ⟨?_, ?_, ?_, ?_, fun _ _ => hdec.trans (congrArg Except.ok (assembleOperands_eq_ite hop))⟩ <;>
      simp [hdec, hgood, hclear]

/-- Settles O8: each word is read, and the encoder gives back what is read. -/
theorem workedEncodings : Obligations.WorkedEncodings :=
  ⟨encode_and_decodeWord (by decide), encode_and_decodeWord (by decide), encode_and_decodeWord (by decide),
    encode_and_decodeWord (by decide), encode_and_decodeWord (by decide)⟩

end Sys2Proof.Machine
end

section
/-! ENCODE and DECODE as commands: both steps of a command run together, a frame read back after it is written, and
the round trips of an array and of a register (R104 to R106). -/

namespace Sys2Proof.Machine

/-! ### Both steps of a command together -/

theorem State.retire_of_idle {s : State} (h : s.inFlight = none) : s.retire = s := by
  rw [State.retire, ← h]

/-- The effect of a command is computed from the registers and the frame buffer: the word in flight is no part of it. -/
theorem commandEffect_putInFlight_retire (i : Instr) (s : State) (w : Word) :
    (commandEffect i (s.putInFlight w)).retire = (commandEffect i s).retire := by
  cases i <;> rfl

/-- From a ready state with its sources valid, a command issues and completes, and what is left is its effect (R174). -/
theorem perform_of_ready {i : Instr} {s : State} (h : s.ready) (hv : (sourceRegs i).all s.isValid = true) :
    perform i s = .next (commandEffect i s) := by
  obtain ⟨hidle, hfault⟩ := h
  have hissue : exec i s = .next (s.putInFlight (encode i)) := by
    simp [exec_of_idle i s hidle, State.issue, unlessFaulted, hfault, hv]
  calc perform i s = exec i (s.putInFlight (encode i)) := by rw [perform, hissue]
    _ = .next (commandEffect i (s.putInFlight (encode i))).retire := exec_of_inFlight i _ rfl
    _ = .next (commandEffect i s) := by
      rw [commandEffect_putInFlight_retire, State.retire_of_idle ((commandEffect_inFlight i s).trans hidle)]

/-- After a command has run, the next one can be written directly. -/
theorem commandEffect_ready (i : Instr) {s : State} (h : s.ready) : (commandEffect i s).ready := by
  simpa [State.ready] using h

/-- ENCODE reads no register, so nothing is tested at its issue (R141). -/
theorem perform_encode_of_ready {s : State} (vd : VRegNum) (fs : FrameNum) (h : s.ready) :
    perform (.encode vd fs) s = .next (s.writeV vd (encodePlanes (s.readFrame fs))) :=
  perform_of_ready h rfl

theorem perform_decode_of_ready {s : State} (fd : FrameNum) {vs : VRegNum} (h : s.ready) (hv : s.isValid vs = true) :
    perform (.decode fd vs) s = .next (s.writeFrame fd (decodePlanes (s.readV vs))) :=
  perform_of_ready h (by simpa [sourceRegs] using hv)

/-! ### A frame that is written reads back -/

/-- What the frame buffer holds after a write: the written bytes, and elsewhere what it held (R16, R62). -/
theorem State.writeBuf_bufByte (s : State) (a : Nat) (bs : List Byte) (x : Nat) :
    (s.writeBuf a bs).bufByte x = if h : a ≤ x ∧ x - a < bs.length then bs[x - a] else s.bufByte x := by
  simp only [State.bufByte, State.writeBuf_buf, State.writeBuf_drawEpoch, lookup_writeRange]
  by_cases h : a ≤ x ∧ x - a < bs.length
  · obtain ⟨hle, hlt⟩ := h
    simp [hle, hlt, show x < a + bs.length by omega]
  · rw [dif_neg h, if_neg (by omega)]

theorem State.writeFrame_readFrame_same (s : State) (f : FrameNum) (y : ByteArray512) :
    (s.writeFrame f y).readFrame f = y := by
  funext i
  have hoffset : frameAddr f i.val - frameAddr f 0 = i.val := by simp [frameAddr]
  have hin : frameAddr f 0 ≤ frameAddr f i.val ∧ frameAddr f i.val - frameAddr f 0 < (arrayBytes y).length := by
    simp [frameAddr]
  rw [State.readFrame, State.writeFrame_eq, State.writeBuf_bufByte, dif_pos hin]
  simp [hoffset]

/-! ### The obligations -/

/-- Settles O27: DECODE undoes ENCODE on arrays, and the frame written last reads back. -/
theorem frameRoundTrip : Obligations.FrameRoundTrip := by
  refine ⟨decodePlanes_encodePlanes, fun s k f g hs => ⟨_, _, perform_encode_of_ready k f hs,
    perform_decode_of_ready g (commandEffect_ready (.encode k f) hs) (s.writeV_isValid_same k _), fun i => ?_⟩⟩
  refine congrFun (?_ : State.readFrame _ g = s.readFrame f) i
  rw [State.writeFrame_readFrame_same, State.writeV_readV_same, decodePlanes_encodePlanes]

/-- Settles O28: the frame that DECODE wrote reads back, and ENCODE undoes DECODE on registers. -/
theorem registerRoundTrip : Obligations.RegisterRoundTrip := by
  refine fun s k j g hs hk => ⟨_, _, perform_decode_of_ready g hs hk,
    perform_encode_of_ready j g (commandEffect_ready (.decode g k) hs), State.writeV_isValid_same _ j _, ?_⟩
  rw [State.writeV_readV_same, State.writeFrame_readFrame_same, encodePlanes_decodePlanes]

/-- Settles O25: DECODE writes a frame, and a write of the frame buffer is no write of a register. -/
theorem decodeKeepsRegisters : Obligations.DecodeKeepsRegisters :=
  fun s fd _ hs hv => ⟨_, perform_decode_of_ready fd hs hv, fun k =>
    ⟨s.writeBuf_isValid _ _ k, s.writeBuf_readV _ _ k⟩⟩

end Sys2Proof.Machine
end

section
/-! The parallel adder: lane by lane it is the addition of bytes (R121), so the laws of byte addition are its laws
(R128 to R130); plane by plane it is one loop from a zero carry (R131). -/

namespace Sys2Proof.Machine

/-! ### One shape for all eight stages -/

/-- The carry plane into stage `b`: the zero carry of R131, then `carry[b - 1]` of R120. -/
def carryInto (A B : BitPlaneVector) : (b : Nat) → b ≤ 8 → Plane
  | 0, _ => 0#512
  | b + 1, h => carryPlane A B b h

@[simp] theorem carryInto_zero (A B : BitPlaneVector) (h : 0 ≤ 8) : carryInto A B 0 h = 0#512 := rfl

/-- With a zero carry into stage 0, its sum is the sum of every other stage. -/
theorem sumPlane_eq (A B : BitPlaneVector) (b : Nat) (h : b < 8) :
    sumPlane A B b h = A[b] ^^^ B[b] ^^^ carryInto A B b h.le := by
  cases b with
  | zero => simp [sumPlane]
  | succ b => rfl

/-- With a zero carry into stage 0, its carry out is the carry out of every other stage. -/
theorem carryInto_succ (A B : BitPlaneVector) (b : Nat) (h : b < 8) :
    carryInto A B (b + 1) h = (A[b] &&& B[b]) ||| (A[b] &&& carryInto A B b h.le) ||| (B[b] &&& carryInto A B b h.le) := by
  cases b with
  | zero => simp [carryInto, carryPlane]
  | succ b => rfl

/-! ### A lane of the ripple is a byte addition -/

/-- Lane `i` of a carry plane is the carry of the byte addition at element `i`. -/
theorem carryInto_getLsbD (A B : BitPlaneVector) (i : Fin 512) (b : Nat) (h : b ≤ 8) :
    (carryInto A B b h).getLsbD i.val = BitVec.carry b (decodePlanes A i) (decodePlanes B i) false := by
  induction b with
  | zero => simp [-BitVec.getLsbD_eq_getElem]
  | succ b ih =>
    have hA : (decodePlanes A i).getLsbD b = A[b].getLsbD i.val := decodePlanes_getLsbD A ⟨b, h⟩ i
    have hB : (decodePlanes B i).getLsbD b = B[b].getLsbD i.val := decodePlanes_getLsbD B ⟨b, h⟩ i
    rw [carryInto_succ, BitVec.carry_succ, hA, hB, ← ih (by omega)]
    simp only [BitVec.getLsbD_or, BitVec.getLsbD_and, Bool.atLeastTwo]

/-- The lane law (R121) in the form that carries over the laws of addition. -/
theorem decodePlanes_addPlanes (A B : BitPlaneVector) (i : Fin 512) :
    decodePlanes (addPlanes A B) i = decodePlanes A i + decodePlanes B i := by
  apply BitVec.eq_of_getLsbD_eq
  intro b hb
  have hbit (X : BitPlaneVector) : (decodePlanes X i).getLsbD b = X[b].getLsbD i.val := decodePlanes_getLsbD X ⟨b, hb⟩ i
  calc (decodePlanes (addPlanes A B) i).getLsbD b
      = (A[b] ^^^ B[b] ^^^ carryInto A B b hb.le).getLsbD i.val := by rw [hbit, addPlanes_getElem, sumPlane_eq]
    _ = (decodePlanes A i + decodePlanes B i).getLsbD b := by
      rw [BitVec.getLsbD_add hb, ← carryInto_getLsbD A B i b hb.le, hbit, hbit]
      simp only [BitVec.getLsbD_xor, Bool.xor_assoc]

/-- Vectors that decode to the same bytes are the same. -/
theorem eq_of_decodePlanes_eq {X Y : BitPlaneVector} (h : ∀ i, decodePlanes X i = decodePlanes Y i) : X = Y :=
  decodePlanes_bijective.injective (funext h)

/-- The byte at an element is made of that element's bits only. -/
theorem decodePlanes_congr {X Y : BitPlaneVector} {i : Fin 512}
    (h : ∀ b : Fin 8, X[b].getLsbD i.val = Y[b].getLsbD i.val) : decodePlanes X i = decodePlanes Y i := by
  simp only [decodePlanes_eq_bits, h]

theorem encodePlanes_zero : encodePlanes (fun _ => 0#8) = BitPlaneVector.zero :=
  planes_ext fun b i => by
    rw [encodePlanes_getLsbD]
    simp [BitPlaneVector.zero]

@[simp] theorem decodePlanes_zero (i : Fin 512) : decodePlanes BitPlaneVector.zero i = 0#8 := by
  rw [← encodePlanes_zero, decodePlanes_encodePlanes]

theorem addPlanes_comm (A B : BitPlaneVector) : addPlanes A B = addPlanes B A :=
  eq_of_decodePlanes_eq fun i => by simp only [decodePlanes_addPlanes, BitVec.add_comm]

theorem addPlanes_assoc (X Y Z : BitPlaneVector) : addPlanes (addPlanes X Y) Z = addPlanes X (addPlanes Y Z) :=
  eq_of_decodePlanes_eq fun i => by simp only [decodePlanes_addPlanes, BitVec.add_assoc]

theorem addPlanes_zero (X : BitPlaneVector) : addPlanes X BitPlaneVector.zero = X :=
  eq_of_decodePlanes_eq fun i => by rw [decodePlanes_addPlanes, decodePlanes_zero, BitVec.add_zero]

/-! ### The planes as one loop -/

/-- From any stage on, the loop entered with the carry into that stage gives the planes that are left. -/
theorem drop_addPlanes_eq_rippleFrom (A B : BitPlaneVector) (b : Nat) (h : b ≤ 8) :
    (addPlanes A B).toList.drop b = rippleFrom (carryInto A B b h) ((A.toList.zip B.toList).drop b) := by
  induction h using Nat.decreasingInduction with
  | self => rw [List.drop_of_length_le (by simp), List.drop_of_length_le (by simp), rippleFrom]
  | of_succ b hb ih =>
    have hS : b < (addPlanes A B).toList.length := by simpa using hb
    have hP : b < (A.toList.zip B.toList).length := by simpa using hb
    rw [List.drop_eq_getElem_cons hS, List.drop_eq_getElem_cons hP, ih]
    simp [rippleFrom, addPlanes_getElem, sumPlane_eq, carryInto_succ]

/-! ### The two commands, issue and completion together -/

theorem perform_add_of_ready {s : State} (vd : VRegNum) {va vb : VRegNum} (h : s.ready) (ha : s.isValid va = true)
    (hb : s.isValid vb = true) : perform (.add vd va vb) s = .next (s.writeV vd (addPlanes (s.readV va) (s.readV vb))) :=
  perform_of_ready h (by simp [sourceRegs, ha, hb])

theorem perform_addAssign_of_ready {s : State} {vd vb : VRegNum} (h : s.ready) (hd : s.isValid vd = true)
    (hb : s.isValid vb = true) : perform (.addAssign vd vb) s = .next (s.writeV vd (addPlanes (s.readV vd) (s.readV vb))) :=
  perform_of_ready h (by simp [sourceRegs, hd, hb])

/-! ### The obligations -/

/-- Settles O12: the carry planes are the model's own. -/
theorem adderIsTheRipple : Obligations.AdderIsTheRipple := by
  refine fun A B => ⟨fun b => carryPlane A B b.val (by omega), rfl, ?_, fun b => ⟨?_, rfl⟩, ?_⟩ <;>
    exact addPlanes_getElem A B _ _

/-- Settles O13: the sum of two lanes is the sum of two bytes, and a byte is made of its own lane's bits. -/
theorem adderLaneLaw : Obligations.AdderLaneLaw := by
  refine ⟨fun A B i => ?_, fun A A' B B' i h b => ?_⟩
  · simp only [← decodePlanes_toNat, decodePlanes_addPlanes, BitVec.toNat_add]
  · have hA : decodePlanes A i = decodePlanes A' i := decodePlanes_congr fun b => (h b).1
    have hB : decodePlanes B i = decodePlanes B' i := decodePlanes_congr fun b => (h b).2
    rw [← decodePlanes_getLsbD, ← decodePlanes_getLsbD, decodePlanes_addPlanes, decodePlanes_addPlanes, hA, hB]

/-- Settles O14: the two commands write the same sum to the same register. -/
theorem adderCommutative : Obligations.AdderCommutative :=
  ⟨addPlanes_comm, fun s vd va vb hs ha hb => by
    rw [perform_add_of_ready vd hs ha hb, perform_add_of_ready vd hs hb ha, addPlanes_comm]⟩

/-- Settles O15, by the lane law: a zero byte adds nothing. -/
theorem adderIdentity : Obligations.AdderIdentity :=
  ⟨encodePlanes_zero, addPlanes_zero, fun x => by rw [addPlanes_zero, decodePlanes_encodePlanes]⟩

/-- Settles O16, by the lane law. -/
theorem adderAssociative : Obligations.AdderAssociative := addPlanes_assoc

/-- Settles O17: the loop from stage 0, into which the carry is zero. -/
theorem adderIsOneLoopFromZeroCarry : Obligations.AdderIsOneLoopFromZeroCarry :=
  fun A B => drop_addPlanes_eq_rippleFrom A B 0 (Nat.zero_le 8)

/-- Settles O26: both commands write `V[vd]` with the sum of the same two values, and read nothing else. -/
theorem addAssignIsAddInPlace : Obligations.AddAssignIsAddInPlace := by
  intro s vd vb hs hd hb
  refine ⟨_, perform_addAssign_of_ready hs hd hb, perform_add_of_ready vd hs hd hb,
    fun k hk => ⟨s.writeV_isValid_other _ hk, s.writeV_readV_other _ hk⟩, fun s' t' hs' hd' hb' hvd hvb ht' => ?_⟩
  rw [perform_addAssign_of_ready hs' hd' hb', Host.Outcome.next.injEq] at ht'
  rw [← ht', State.writeV_readV_same, State.writeV_readV_same, hvd, hvb]

end Sys2Proof.Machine
end

section
/-! The fault fields over one step: a fault is entered only where none is recorded, and left only by FCLR or reset
(R143 to R147). -/

namespace Sys2Proof.Machine

/-! ### What can happen to the fault fields -/

/-- Fault entry (R143): no fault was recorded, and one is now, as the newest entry of the ghost record. -/
def faultEntered (s t : State) : Prop :=
  s.fault = false ∧ t.fault = true ∧ t.faultLog = { cause := t.cause, word := t.faultCmd } :: s.faultLog

/-- Fault exit (R146): FAULT and CAUSE are 0, FAULTCMD and the ghost record are as before. -/
def faultCleared (s t : State) : Prop :=
  t.fault = false ∧ t.cause = .noFault ∧ t.faultCmd = s.faultCmd ∧ t.faultLog = s.faultLog

theorem sameFaults_refl (s : State) : sameFaults s s := ⟨rfl, rfl, rfl, rfl⟩

theorem faultEntered_enterFault {s : State} (c : FaultCause) (w : Word) (h : s.fault = false) :
    faultEntered s (s.enterFault c w) := ⟨h, rfl, rfl⟩

theorem faultCleared_clearFault (s : State) : faultCleared s s.clearFault := ⟨rfl, rfl, rfl, rfl⟩

/-! ### The write to CTRL -/

theorem ctrlWrite_of_fclr {v : Word} (s : State) (h : v.getLsbD 0 = true) : ctrlWrite v s = s.clearFault := if_pos h

theorem ctrlWrite_of_not_fclr {v : Word} (s : State) (h : v.getLsbD 0 = false) : ctrlWrite v s = s := by
  rw [ctrlWrite, h, if_neg Bool.false_ne_true]

theorem busWrite_ctrl (s : State) (n : Nat) (v : Word) : busWrite s 0xC n v = .next (ctrlWrite v s) := rfl

theorem State.clearFault_of_noFault {s : State} (hf : s.fault = false) (hc : s.cause = .noFault) : s.clearFault = s := by
  rw [State.clearFault, ← hf, ← hc]

/-- With no fault recorded a write to CTRL does nothing, whatever its bits (R35). -/
theorem ctrlWrite_of_noFault (v : Word) {s : State} (hf : s.fault = false) (hc : s.cause = .noFault) :
    ctrlWrite v s = s := by
  cases hv : v.getLsbD 0 with
  | true => rw [ctrlWrite_of_fclr s hv, State.clearFault_of_noFault hf hc]
  | false => exact ctrlWrite_of_not_fclr s hv

/-! ### The fault fields through each operation -/

theorem issue_faults (s : State) (w : Word) (srcs : List VRegNum) :
    sameFaults s (s.issue w srcs) ∨ faultEntered s (s.issue w srcs) := by
  rcases issue_cases s w srcs with ⟨_, e⟩ | ⟨_, _, e⟩ | ⟨hf, _, e⟩ <;> rw [e]
  · exact .inl (sameFaults_refl s)
  · exact .inl (sameFaults_refl s)
  · exact .inr (faultEntered_enterFault _ w hf)

theorem rejectWord_faults (s : State) (e : DecodeError) (w : Word) :
    sameFaults s (s.rejectWord e w) ∨ faultEntered s (s.rejectWord e w) := by
  rcases rejectWord_cases s e w with ⟨_, h⟩ | ⟨hf, c, _, h⟩ <;> rw [h]
  · exact .inl (sameFaults_refl s)
  · exact .inr (faultEntered_enterFault c w hf)

/-- The completion of a command raises no fault and clears none (R144). -/
theorem sameFaults_completion (i : Instr) (s : State) : sameFaults s (commandEffect i s).retire :=
  ⟨commandEffect_fault i s, commandEffect_cause i s, commandEffect_faultCmd i s, commandEffect_faultLog i s⟩

theorem commandWrite_faults {w : Word} {s t : State} (h : commandWrite w s = .next t) :
    sameFaults s t ∨ faultEntered s t := by
  cases hd : decodeWord w with
  | error e =>
    obtain rfl : s.rejectWord e w = t := by simpa [commandWrite, hd] using h
    exact rejectWord_faults s e w
  | ok i =>
    have hexec : exec i s = .next t := by simpa [commandWrite, hd] using h
    rcases exec_cases i s with ⟨_, e⟩ | ⟨_, e⟩ | ⟨_, _, _, e⟩ <;> obtain rfl := Host.Outcome.next.inj (e.symm.trans hexec)
    · exact issue_faults s _ _
    · exact .inl (sameFaults_completion i s)
    · exact .inl (sameFaults_refl s)

theorem ctrlWrite_faults (v : Word) (s : State) : sameFaults s (ctrlWrite v s) ∨ faultCleared s (ctrlWrite v s) := by
  cases hv : v.getLsbD 0 with
  | true => rw [ctrlWrite_of_fclr s hv]; exact .inr (faultCleared_clearFault s)
  | false => rw [ctrlWrite_of_not_fclr s hv]; exact .inl (sameFaults_refl s)

/-- A write to CMD can enter a fault, a write to CTRL can clear one, any other write leaves the fault fields. -/
theorem busWrite_faults {s t : State} {o n : Nat} {v : Word} (h : busWrite s o n v = .next t) :
    sameFaults s t ∨ faultEntered s t ∨ faultCleared s t := by
  rcases busWrite_cases s o n v with ⟨_, e⟩ | ⟨_, e⟩ | ⟨_, _, _, e⟩ | ⟨_, e⟩ <;> rw [e] at h
  · exact (commandWrite_faults h).imp_right .inl
  · obtain rfl := Host.Outcome.next.inj h
    exact (ctrlWrite_faults v s).imp_right .inr
  · obtain rfl := Host.Outcome.next.inj h
    exact .inl (sameFaults_refl s)
  · obtain rfl := Host.Outcome.next.inj h
    exact .inl (sameFaults_refl s)

/-- What the host receives is no fault field, so the bound on the bus write carries over as it stands. -/
theorem performAccess_faults {a : HostAccess} {s t : State} (h : performAccess a s = .next t) :
    sameFaults s t ∨ faultEntered s t ∨ faultCleared s t := by
  rcases performAccess_cases a s with ⟨_, _, e⟩ | ⟨_, _, e⟩ | ⟨_, _, _, e⟩ <;> rw [e] at h
  · cases h
  · obtain rfl := Host.Outcome.next.inj h
    exact .inl (sameFaults_refl s)
  · exact (busWrite_faults h :)

theorem blockMove_faults {s t : State} (h : blockMove s = .next t) : sameFaults s t := by
  rcases blockMove_cases s with ⟨_, e⟩ | ⟨_, i, _, _, e⟩ | ⟨_, _, _, _, e⟩ <;> rw [e] at h
  · obtain rfl := Host.Outcome.next.inj h
    exact sameFaults_refl s
  · obtain rfl := Host.Outcome.next.inj h
    exact sameFaults_completion i s
  · cases h

/-- Everything a step can do to the fault fields: leave them, enter a fault where none is recorded, clear the fault
(R146), or reset the block (R170). -/
theorem step_faults {s t : State} (h : step s = .next t) :
    sameFaults s t ∨ faultEntered s t ∨ faultCleared s t ∨ ∃ m, s.resetTurn = true ∧ t = platformReset m s.popTurn := by
  rcases step_cases s with ⟨m, hm, e⟩ | ⟨_, _, e⟩ | ⟨_, _, _, e⟩ | ⟨a, _, _, _, _, e⟩ <;> rw [e] at h
  · exact .inr (.inr (.inr ⟨m, (resetTurn_iff s).2 ⟨m, hm⟩, (Host.Outcome.next.inj h).symm⟩))
  · exact .inl (blockMove_faults h :)
  · obtain rfl := Host.Outcome.next.inj h
    exact .inl (sameFaults_refl s)
  · exact (performAccess_faults h :).imp_right (Or.imp_right .inl)

/-! ### The obligations -/

/-- Settles O32: with a fault recorded none is entered, and a fault cleared or reset away is recorded no more. -/
theorem faultsDoNotNest : Obligations.FaultsDoNotNest := by
  intro s t hs hstep ht
  rcases step_faults hstep with ⟨_, hsame⟩ | ⟨hnone, _⟩ | ⟨hcleared, _⟩ | ⟨m, _, rfl⟩
  · exact hsame
  · simp [hs] at hnone
  · simp [ht] at hcleared
  · simp at ht

/-- Settles O31: FCLR clears FAULT and CAUSE, which with no fault recorded are 0 already. -/
theorem fclrClearsFault : Obligations.FclrClearsFault := by
  refine ⟨fun s v hv => ?_, fun s v hv => ?_, fun s v hs hf => ?_, fun s m => ⟨rfl, rfl⟩⟩
  · have hclear : busWrite s 0xC 4 v = .next s.clearFault := by rw [busWrite_ctrl, ctrlWrite_of_fclr s hv]
    exact ⟨hclear, fun hidle => ⟨s.clearFault, hclear, hidle, rfl⟩⟩
  · rw [busWrite_ctrl, ctrlWrite_of_not_fclr s hv]
  · rw [busWrite_ctrl, ctrlWrite_of_noFault v hf (hs.causeIffFault.1 hf)]

end Sys2Proof.Machine
end

section
/-! What a step can leave, said once over the whole state, and the invariant: it holds at reset and every step keeps
it. -/

namespace Sys2Proof.Machine

/-! ### What a host access that is not held leaves -/

theorem State.busy_eq_false_iff (s : State) : s.busy = false ↔ s.inFlight = none := by
  simp [State.busy]

/-- What a host access can leave: its response and, with nothing in flight, at most one change of the block. -/
inductive AccessEffect (a : HostAccess) (s : State) : State → Prop
  /-- A read, or a write that the block ignores or discards (R52, R60, R145). -/
  | answered (r : BusResponse) : AccessEffect a s (s.respond r)
  /-- A write to CMD that passes every check (R142, R174). -/
  | issued {w : Word} {i : Instr} (idle : s.inFlight = none) (noFault : s.fault = false) (decodes : decodeWord w = .ok i)
      (sources : (sourceRegs i).all s.isValid = true) : AccessEffect a s ((s.respond .written).putInFlight w)
  /-- A write to CMD that fails a check (R143). -/
  | faulted {c : FaultCause} (w : Word) (idle : s.inFlight = none) (noFault : s.fault = false) (isCause : c ≠ .noFault) :
      AccessEffect a s ((s.respond .written).enterFault c w)
  /-- A write to CTRL with FCLR set (R146). -/
  | cleared (idle : s.inFlight = none) : AccessEffect a s (s.respond .written).clearFault
  /-- A write to the frame buffer (R55). -/
  | stored {v : Word} (idle : s.inFlight = none) (isWrite : a.written = some v) (inBuffer : 0x1000 ≤ a.offset)
      (fits : a.offset - 0x1000 + a.width ≤ 4096) :
      AccessEffect a s ((s.respond .written).writeBuf (a.offset - 0x1000) (busBytes a.width v))

/-- The writes that can change the block are those that the interlock holds (R61). -/
theorem idle_of_heldWrite {a : HostAccess} {s : State} {v : Word}
    (hheld : s.busy = true → HostAccess.heldWhileBusy a = false)
    (hr : HostAccess.refusal a = none) (hw : a.written = some v)
    (ho : a.offset = 0x0 ∨ a.offset = 0xC ∨ 0x1000 ≤ a.offset) : s.inFlight = none := by
  have hnot : HostAccess.heldWhileBusy a ≠ false := by
    rw [heldWhileBusy_eq hr, hw]
    rcases ho with h | h | h <;> simp [h]
  rw [← State.busy_eq_false_iff]
  exact Bool.eq_false_iff.2 fun hb => hnot (hheld hb)

theorem commandWrite_effect (a : HostAccess) {s t : State} {w : Word} (hidle : s.inFlight = none)
    (h : commandWrite w (s.respond .written) = .next t) : AccessEffect a s t := by
  rcases commandWrite_cases w (s.respond .written) hidle with
    ⟨_, e⟩ | ⟨hf, i, hd, hv, e⟩ | ⟨hf, i, hd, _, e⟩ | ⟨hf, _, c, _, hc, e⟩ <;> obtain rfl :=
      Host.Outcome.next.inj (e.symm.trans h)
  · exact .answered .written
  · rw [encode_of_decodeWord hd]
    exact .issued hidle hf hd hv
  · exact .faulted _ hidle hf (by decide)
  · exact .faulted _ hidle hf hc

theorem busWrite_effect {a : HostAccess} {s t : State} {v : Word}
    (hheld : s.busy = true → HostAccess.heldWhileBusy a = false)
    (hr : HostAccess.refusal a = none) (hw : a.written = some v)
    (h : busWrite (s.respond .written) a.offset a.width v = .next t) : AccessEffect a s t := by
  rcases busWrite_cases (s.respond .written) a.offset a.width v with ⟨ho, e⟩ | ⟨ho, e⟩ | ⟨_, _, _, e⟩ | ⟨ho, e⟩ <;> rw [e] at h
  · exact commandWrite_effect a (idle_of_heldWrite hheld hr hw (.inl ho)) h
  · obtain rfl := Host.Outcome.next.inj h
    cases hv : v.getLsbD 0 with
    | true =>
      rw [ctrlWrite_of_fclr _ hv]
      exact .cleared (idle_of_heldWrite hheld hr hw (.inr (.inl ho)))
    | false =>
      rw [ctrlWrite_of_not_fclr _ hv]
      exact .answered .written
  · obtain rfl := Host.Outcome.next.inj h
    exact .answered .written
  · obtain rfl := Host.Outcome.next.inj h
    obtain ⟨_, _, hfits⟩ := refusal_none_bounds hr
    exact .stored (idle_of_heldWrite hheld hr hw (.inr (.inr ho))) hw ho (hfits ho)

theorem performAccess_effect {a : HostAccess} {s t : State} (hheld : s.busy = true → HostAccess.heldWhileBusy a = false)
    (h : performAccess a s = .next t) : AccessEffect a s t := by
  rcases performAccess_cases a s with ⟨_, _, e⟩ | ⟨_, _, e⟩ | ⟨v, hr, hw, e⟩ <;> rw [e] at h
  · cases h
  · obtain rfl := Host.Outcome.next.inj h
    exact .answered _
  · exact busWrite_effect hheld hr hw h

/-- Everything a step that goes on can leave: the reset block, the effect of the command in flight, the state with the
turn used, or the effect of the host's next access. -/
theorem step_effect {s t : State} (h : step s = .next t) :
    (∃ m, s.turns.head? = some (.reset m) ∧ t = platformReset m s.popTurn)
      ∨ (∃ w i, s.inFlight = some w ∧ decodeWord w = .ok i ∧ t = (commandEffect i s.popTurn).retire)
      ∨ t = s.popTurn
      ∨ ∃ a rest, s.script = a :: rest ∧ AccessEffect a s.popTurn.popAccess t := by
  rcases step_cases s with ⟨m, hm, e⟩ | ⟨_, _, e⟩ | ⟨_, _, _, e⟩ | ⟨a, rest, _, hs, hheld, e⟩ <;> rw [e] at h
  · exact .inl ⟨m, hm, (Host.Outcome.next.inj h).symm⟩
  · rcases blockMove_cases s.popTurn with ⟨_, e⟩ | ⟨w, i, hw, hd, e⟩ | ⟨_, _, _, _, e⟩ <;> rw [e] at h
    · exact .inr (.inr (.inl (Host.Outcome.next.inj h).symm))
    · exact .inr (.inl ⟨w, i, hw, hd, (Host.Outcome.next.inj h).symm⟩)
    · cases h
  · exact .inr (.inr (.inl (Host.Outcome.next.inj h).symm))
  · exact .inr (.inr (.inr ⟨a, rest, hs, performAccess_effect hheld h⟩))

/-! ### The invariant through each operation -/

/-- The invariant says nothing of the host's accesses, the turns and the responses. -/
theorem State.Inv.surroundings {s : State} (h : s.Inv) (script : List HostAccess) (turns : List Turn)
    (responses : List BusResponse) : ({ s with script := script, turns := turns, responses := responses } : State).Inv :=
  ⟨h.buffer, h.causeIffFault, h.busyNoFault, h.inFlightChecked, h.emptyIsZero, h.faultIsNewest, h.faultCmdFaulted⟩

theorem State.Inv.popTurn {s : State} (h : s.Inv) : s.popTurn.Inv := h.surroundings _ _ _
theorem State.Inv.popAccess {s : State} (h : s.Inv) : s.popAccess.Inv := h.surroundings _ _ _
theorem State.Inv.respond {s : State} (h : s.Inv) (r : BusResponse) : (s.respond r).Inv := h.surroundings _ _ _

theorem State.Inv.putInFlight {s : State} {w : Word} {i : Instr} (h : s.Inv) (hf : s.fault = false)
    (hd : decodeWord w = .ok i) (hv : (sourceRegs i).all s.isValid = true) : (s.putInFlight w).Inv where
  buffer := h.buffer
  causeIffFault := h.causeIffFault
  busyNoFault _ := hf
  inFlightChecked v hw := by
    obtain rfl := Option.some.inj hw
    exact ⟨i, hd, List.all_eq_true.1 hv⟩
  emptyIsZero := h.emptyIsZero
  faultIsNewest := h.faultIsNewest
  faultCmdFaulted := h.faultCmdFaulted

theorem State.Inv.enterFault {s : State} {c : FaultCause} (h : s.Inv) (w : Word) (hidle : s.inFlight = none)
    (hc : c ≠ .noFault) : (s.enterFault c w).Inv where
  buffer := h.buffer
  causeIffFault := by simpa using hc
  busyNoFault hb := by simp [State.busy, hidle] at hb
  inFlightChecked _ hw := by simp [hidle] at hw
  emptyIsZero := h.emptyIsZero
  faultIsNewest _ := rfl
  faultCmdFaulted := .inr ⟨c, List.mem_cons_self⟩

theorem State.Inv.clearFault {s : State} (h : s.Inv) : s.clearFault.Inv where
  buffer := h.buffer
  causeIffFault := by simp
  busyNoFault _ := rfl
  inFlightChecked := h.inFlightChecked
  emptyIsZero := h.emptyIsZero
  faultIsNewest := nofun
  faultCmdFaulted := h.faultCmdFaulted

theorem State.Inv.retire {s : State} (h : s.Inv) : s.retire.Inv where
  buffer := h.buffer
  causeIffFault := h.causeIffFault
  busyNoFault := nofun
  inFlightChecked := nofun
  emptyIsZero := h.emptyIsZero
  faultIsNewest := h.faultIsNewest
  faultCmdFaulted := h.faultCmdFaulted

/-- A write of a register clears no VALID bit (R26). -/
theorem State.writeV_isValid_of_isValid {s : State} {j : VRegNum} (k : VRegNum) (X : BitPlaneVector)
    (h : s.isValid j = true) : (s.writeV k X).isValid j = true := by
  by_cases hj : j = k
  · subst hj
    exact s.writeV_isValid_same j X
  · rw [s.writeV_isValid_other X hj, h]

theorem State.Inv.writeV {s : State} (h : s.Inv) (k : VRegNum) (X : BitPlaneVector) : (s.writeV k X).Inv where
  buffer := h.buffer
  causeIffFault := h.causeIffFault
  busyNoFault := h.busyNoFault
  inFlightChecked w hw := by
    obtain ⟨i, hd, hv⟩ := h.inFlightChecked w hw
    exact ⟨i, hd, fun j hj => State.writeV_isValid_of_isValid k X (hv j hj)⟩
  emptyIsZero j hj := by
    have hne : j ≠ k := by
      rintro rfl
      simp at hj
    rw [s.writeV_isValid_other X hne] at hj
    rw [s.writeV_readV_other X hne, h.emptyIsZero j hj]
  faultIsNewest := h.faultIsNewest
  faultCmdFaulted := h.faultCmdFaulted

theorem State.Inv.writeBuf {s : State} (h : s.Inv) {a : Nat} {bs : List Byte} (hfits : a + bs.length ≤ 4096) :
    (s.writeBuf a bs).Inv where
  buffer := writeRange_keeps_wf s.buf a bs h.buffer hfits
  causeIffFault := h.causeIffFault
  busyNoFault := h.busyNoFault
  inFlightChecked := h.inFlightChecked
  emptyIsZero := h.emptyIsZero
  faultIsNewest := h.faultIsNewest
  faultCmdFaulted := h.faultCmdFaulted

theorem State.Inv.commandEffect {s : State} (h : s.Inv) (i : Instr) : (commandEffect i s).Inv := by
  cases i with
  | encode vd fs => exact h.writeV _ _
  | decode fd vs => exact h.writeBuf (frame_in_buffer fd _)
  | add vd va vb => exact h.writeV _ _
  | addAssign vd vb => exact h.writeV _ _

/-- Every field the invariant speaks of, but for the ghost record, has its reset value. -/
theorem inv_of_reset (epoch : Nat) (log : List FaultRecord) (script : List HostAccess) (turns : List Turn)
    (responses : List BusResponse) : ({ State.reset with
      drawEpoch := epoch, faultLog := log, script := script, turns := turns, responses := responses } : State).Inv where
  buffer := reset_memory_wf
  causeIffFault := by simp
  busyNoFault := nofun
  inFlightChecked := nofun
  emptyIsZero k _ := (State.isValid_of_replicate rfl k).2
  faultIsNewest := nofun
  faultCmdFaulted := .inl rfl

theorem platformReset_inv (m : Bool) (s : State) : (platformReset m s).Inv := inv_of_reset _ _ _ _ _

theorem AccessEffect.keeps_inv {a : HostAccess} {s t : State} (h : AccessEffect a s t) (hs : s.Inv) : t.Inv := by
  cases h with
  | answered r => exact hs.respond r
  | issued _ hf hd hv => exact (hs.respond _).putInFlight hf hd hv
  | faulted w hidle _ hc => exact (hs.respond _).enterFault w hidle hc
  | cleared _ => exact (hs.respond _).clearFault
  | stored _ _ _ hfits => exact (hs.respond _).writeBuf (by rwa [busBytes_length])

/-! ### What STATUS reads after a reset -/

theorem State.reset_status : State.reset.status = 0#32 := by decide

/-- STATUS is made of fields that a reset gives their reset values. -/
theorem platformReset_status (m : Bool) (s : State) : (platformReset m s).status = 0#32 := State.reset_status

/-! ### The obligations -/

/-- Settles O3: each of the four things a step can leave meets the invariant. -/
theorem stepKeepsInvariant : Obligations.StepKeepsInvariant := by
  intro s t hs hstep
  rcases step_effect hstep with ⟨m, _, rfl⟩ | ⟨_, i, _, _, rfl⟩ | rfl | ⟨_, _, _, heffect⟩
  · exact platformReset_inv m _
  · exact (hs.popTurn.commandEffect i).retire
  · exact hs.popTurn
  · exact heffect.keeps_inv hs.popTurn.popAccess

/-- Settles O2: nothing is in flight, recorded or written. -/
theorem resetMeetsInvariant : Obligations.ResetMeetsInvariant := inv_of_reset _ _ _ _ _

/-- Settles O1, by the values of the reset state. -/
theorem resetLeavesBlockIdle : Obligations.ResetLeavesBlockIdle :=
  ⟨State.isValid_of_replicate rfl, rfl, rfl, rfl, rfl, State.reset_status, fun _ => rfl⟩

/-- Settles O4: a reset turn is a reset, whatever is in flight. -/
theorem platformResetEffect : Obligations.PlatformResetEffect := by
  intro s m hturn
  refine ⟨platformReset m s.popTurn, ?_, State.isValid_of_replicate rfl, rfl, rfl, rfl, rfl, platformReset_status m _,
    fun _ => rfl, rfl, rfl, rfl, rfl⟩
  simp [step, move, State.mover, hturn]

end Sys2Proof.Machine
end

section
/-! The encoder undone: the decoder, the table of exact patterns and the assembler give back the command that was written
(R84, R86, R87). -/

namespace Sys2Proof

/-! ### The decoder undoes the encoder -/

/-- The encoder puts every field where R81 has it, for every command. -/
theorem ofWord_encode (i : Instr) : CmdFields.ofWord (encode i) = Laws.commandFields i := by
  cases i with
  | encode vd fs => exact Laws.EncodedFields.encode vd fs
  | decode fd vs => exact Laws.EncodedFields.decode fd vs
  | add vd va vb => exact Laws.EncodedFields.add vd va vb
  | addAssign vd vb => exact Laws.EncodedFields.addAssign vd vb

theorem commandFields_op (i : Instr) : (Laws.commandFields i).op = i.opcode.field := by
  cases i <;> rfl

theorem commandFields_reserved (i : Instr) : reservedFieldSet i.opcode (Laws.commandFields i) = false := by
  cases i <;> rfl

theorem assembleOperands_commandFields (i : Instr) : assembleOperands i.opcode (Laws.commandFields i) = i := by
  cases i <;> rfl

theorem opcodeOf_encode (i : Instr) : opcodeOf (CmdFields.ofWord (encode i)).op = some i.opcode := by
  rw [ofWord_encode, opcodeOf_eq_some_iff, commandFields_op]

theorem reservedFieldSet_encode (i : Instr) : reservedFieldSet i.opcode (CmdFields.ofWord (encode i)) = false := by
  rw [ofWord_encode, commandFields_reserved]

theorem decodeWord_encode (i : Instr) : decodeWord (encode i) = .ok i :=
  (decodeWord_eq_ok_iff _ _).2
    ⟨opcodeOf_encode i, reservedFieldSet_encode i, by rw [ofWord_encode, assembleOperands_commandFields]⟩

theorem ofNat_toNat_mod (w : Word) : BitVec.ofNat 32 (w.toNat % 2 ^ 32) = w := by
  rw [Nat.mod_eq_of_lt w.isLt, BitVec.ofNat_toNat, BitVec.setWidth_eq]

/-- A 32-bit row of the table is a word, laid out in bytes and read back. -/
theorem decodeTableWord_toNat (w : Word) : decodeTableWord 32 w.toNat = (decodeWord w).toOption := by
  rw [decodeTableWord, ofNat_toNat_mod, decodeBytes, if_pos (Machine.busBytes_length 4 w), busValue_busBytes]

end Sys2Proof

namespace Sys2Proof.Machine

/-! ### The assembler reads the parts of a line -/

/-- A part of a line: not empty, and with none of the characters that separate parts. -/
def PlainPart (cs : List Char) : Prop := cs ≠ [] ∧ ∀ c ∈ cs, c ≠ '#' ∧ c ≠ ',' ∧ isBlank c = false

/-- Operands with a comma and a blank between them. -/
def operandText : List (List Char) → List Char
  | [] => []
  | [a] => a
  | a :: b :: rest => a ++ ',' :: ' ' :: operandText (b :: rest)

theorem dropWhile_isBlank_of_plain {cs : List Char} (h : PlainPart cs) (rest : List Char) :
    (cs ++ rest).dropWhile isBlank = cs ++ rest := by
  obtain ⟨hne, hc⟩ := h
  cases cs with
  | nil => exact absurd rfl hne
  | cons c cs => simp [(hc c (by simp)).2.2]

theorem PlainPart.reverse {cs : List Char} (h : PlainPart cs) : PlainPart cs.reverse :=
  ⟨by simpa using h.1, fun c hc => h.2 c (by simpa using hc)⟩

theorem trimBlanks_blank_cons (cs : List Char) : trimBlanks (' ' :: cs) = trimBlanks cs := by
  simp [trimBlanks, isBlank]

/-- A text that begins and ends with plain parts has no blanks at its ends. -/
theorem trimBlanks_of_plain_ends {first last : List Char} (mid : List Char) (hf : PlainPart first) (hl : PlainPart last) :
    trimBlanks (first ++ (mid ++ last)) = first ++ (mid ++ last) := by
  rw [trimBlanks, dropWhile_isBlank_of_plain hf, ← List.append_assoc, List.reverse_append,
    dropWhile_isBlank_of_plain hl.reverse, ← List.reverse_append, List.reverse_reverse]

theorem trimBlanks_plain {cs : List Char} (h : PlainPart cs) : trimBlanks cs = cs := by
  have hstart := dropWhile_isBlank_of_plain h []
  have hend := dropWhile_isBlank_of_plain h.reverse []
  rw [List.append_nil] at hstart hend
  rw [trimBlanks, hstart, hend, List.reverse_reverse]

theorem splitCommas_of_no_comma {cs : List Char} (h : ∀ c ∈ cs, c ≠ ',') : splitCommas cs = [cs] := by
  induction cs with
  | nil => rfl
  | cons c cs ih =>
    have hrest : splitCommas cs = [cs] := ih fun x hx => h x (List.mem_cons_of_mem c hx)
    simp [splitCommas, h c List.mem_cons_self, hrest]

theorem splitCommas_append_comma {cs : List Char} (rest : List Char) (h : ∀ c ∈ cs, c ≠ ',') :
    splitCommas (cs ++ ',' :: rest) = cs :: splitCommas rest := by
  induction cs with
  | nil => simp [splitCommas]
  | cons c cs ih =>
    have hrest : splitCommas (cs ++ ',' :: rest) = cs :: splitCommas rest := ih fun x hx => h x (List.mem_cons_of_mem c hx)
    simp [splitCommas, h c List.mem_cons_self, hrest]

/-- The operands are read back from between the commas. -/
theorem splitCommas_operandText {ops : List (List Char)} (hne : ops ≠ []) (h : ∀ a ∈ ops, PlainPart a) :
    (splitCommas (' ' :: operandText ops)).map trimBlanks = ops := by
  have hblank {a : List Char} (ha : PlainPart a) : ∀ c ∈ ' ' :: a, c ≠ ',' := by
    simpa using fun c hc => (ha.2 c hc).2.1
  induction ops with
  | nil => exact absurd rfl hne
  | cons a ops ih =>
    have ha : PlainPart a := h a List.mem_cons_self
    cases ops with
    | nil => rw [operandText, splitCommas_of_no_comma (hblank ha), List.map_singleton, trimBlanks_blank_cons, trimBlanks_plain ha]
    | cons b ops =>
      have hrest := ih (by simp) fun x hx => h x (List.mem_cons_of_mem a hx)
      rw [operandText, ← List.cons_append, splitCommas_append_comma _ (hblank ha), List.map_cons, hrest,
        trimBlanks_blank_cons, trimBlanks_plain ha]

theorem operandText_no_comment {ops : List (List Char)} (h : ∀ a ∈ ops, PlainPart a) : ∀ c ∈ operandText ops, c ≠ '#' := by
  induction ops with
  | nil => simp [operandText]
  | cons a ops ih =>
    have ha : ∀ c ∈ a, c ≠ '#' := fun c hc => ((h a List.mem_cons_self).2 c hc).1
    cases ops with
    | nil => exact ha
    | cons b ops =>
      have hrest := ih fun x hx => h x (List.mem_cons_of_mem a hx)
      intro c hc
      simp only [operandText, List.mem_append, List.mem_cons] at hc
      rcases hc with hc | rfl | rfl | hc
      · exact ha c hc
      · decide
      · decide
      · exact hrest c hc

theorem operandText_ends_plain {ops : List (List Char)} (hne : ops ≠ []) (h : ∀ a ∈ ops, PlainPart a) :
    ∃ mid last, operandText ops = mid ++ last ∧ PlainPart last := by
  induction ops with
  | nil => exact absurd rfl hne
  | cons a ops ih =>
    cases ops with
    | nil => exact ⟨[], a, rfl, h a List.mem_cons_self⟩
    | cons b ops =>
      obtain ⟨mid, last, hmid, hlast⟩ := ih (by simp) fun x hx => h x (List.mem_cons_of_mem a hx)
      exact ⟨a ++ ',' :: ' ' :: mid, last, by simp [operandText, hmid], hlast⟩

/-- A line made of a mnemonic and operands is read as those parts (R87). -/
theorem assembleLine_of_parts {m : List Char} {ops : List (List Char)} (hm : PlainPart m) (hne : ops ≠ [])
    (hops : ∀ a ∈ ops, PlainPart a) :
    assembleLine (m ++ ' ' :: operandText ops) = (assembleParts m ops).map some := by
  obtain ⟨mid, last, hend, hlast⟩ := operandText_ends_plain hne hops
  have hcomment : (m ++ ' ' :: operandText ops).takeWhile (· != '#') = m ++ ' ' :: operandText ops := by
    rw [List.takeWhile_eq_self_iff]
    intro c hc
    rcases List.mem_append.1 hc with hc | hc
    · simpa using (hm.2 c hc).1
    · rcases List.mem_cons.1 hc with rfl | hc
      · rfl
      · simpa using operandText_no_comment hops c hc
  have htrim : trimBlanks (m ++ ' ' :: operandText ops) = m ++ ' ' :: operandText ops := by
    rw [hend, ← List.cons_append, trimBlanks_of_plain_ends _ hm hlast]
  have hmnemonic : (m ++ ' ' :: operandText ops).takeWhile (!isBlank ·) = m := by
    rw [List.takeWhile_append_of_pos fun c hc => by simpa using (hm.2 c hc).2.2]
    simp [isBlank]
  simp only [assembleLine, hcomment, htrim, hmnemonic, List.drop_left]
  simp [splitCommas_operandText hne hops]

theorem digit_plain (k : Fin 8) : Char.ofNat (48 + k.val) ≠ '#' ∧ Char.ofNat (48 + k.val) ≠ ','
    ∧ isBlank (Char.ofNat (48 + k.val)) = false := by
  revert k
  decide

/-- A name is plain if its letter is. -/
theorem numberedName_plain {letter : Char} (h : letter ≠ '#' ∧ letter ≠ ',' ∧ isBlank letter = false) (k : Fin 8) :
    PlainPart (numberedName letter k) := by
  refine ⟨List.cons_ne_nil _ _, fun c hc => ?_⟩
  simp only [numberedName, List.mem_cons, List.not_mem_nil, or_false] at hc
  rcases hc with rfl | rfl
  · exact h
  · exact digit_plain k

theorem digitValue_digit (k : Fin 8) : digitValue (Char.ofNat (48 + k.val)) = some k.val := by
  revert k
  decide

theorem numberedOperand_numberedName (letter : Char) (k : Fin 8) : numberedOperand letter (numberedName letter k) = some k := by
  simp [numberedOperand, numberedName, digitValue_digit]

/-! ### A command line, by its parts -/

/-- The mnemonic of a command (R87). -/
def mnemonicText : Instr → List Char
  | .encode _ _ => ['e', 'n', 'c', 'o', 'd', 'e']
  | .decode _ _ => ['d', 'e', 'c', 'o', 'd', 'e']
  | .add _ _ _ => ['a', 'd', 'd']
  | .addAssign _ _ => ['a', 'd', 'd', '_', 'a', 's', 's', 'i', 'g', 'n']

/-- The operands of a command, written out (R87). -/
def operandNames : Instr → List (List Char)
  | .encode vd fs => [numberedName 'v' vd, numberedName 'f' fs]
  | .decode fd vs => [numberedName 'f' fd, numberedName 'v' vs]
  | .add vd va vb => [numberedName 'v' vd, numberedName 'v' va, numberedName 'v' vb]
  | .addAssign vd vb => [numberedName 'v' vd, numberedName 'v' vb]

theorem commandText_eq_parts (i : Instr) : commandText i = mnemonicText i ++ ' ' :: operandText (operandNames i) := by
  cases i <;> rfl

theorem mnemonicText_plain (i : Instr) : PlainPart (mnemonicText i) := by
  cases i <;> simp [mnemonicText, PlainPart, isBlank]

theorem operandNames_ne_nil (i : Instr) : operandNames i ≠ [] := by
  cases i <;> simp [operandNames]

theorem operandNames_plain (i : Instr) : ∀ a ∈ operandNames i, PlainPart a := by
  have hv := numberedName_plain (letter := 'v') (by decide)
  have hf := numberedName_plain (letter := 'f') (by decide)
  cases i <;> simp [operandNames, hv, hf]

theorem assembleParts_command (i : Instr) : assembleParts (mnemonicText i) (operandNames i) = .ok (.cmd i) := by
  cases i <;> simp [assembleParts, mnemonicText, operandNames, numberedOperand_numberedName]

/-! ### The obligations -/

/-- Settles O5: the encoder writes the fields that the decoder, and the row of the table, test. -/
theorem decodeOfEncode : Obligations.DecodeOfEncode := fun i =>
  ⟨decodeWord_encode i, by rw [decodeTableWord_toNat, decodeWord_encode]; rfl,
    (patternRow_matchesWord_iff _ _).2 ⟨opcodeOf_encode i, reservedFieldSet_encode i⟩⟩

/-- Settles O9: the line is a mnemonic and operands, and each is read back. -/
theorem assembledTextIsCommand : Obligations.AssembledTextIsCommand := by
  refine fun i => ⟨?_, rfl⟩
  rw [commandText_eq_parts, assembleLine_of_parts (mnemonicText_plain i) (operandNames_ne_nil i) (operandNames_plain i),
    assembleParts_command]
  rfl

end Sys2Proof.Machine
end

section
/-! A command's issue and its completion, each as one step: the checks of R142 in their order, what a completion writes,
and that nothing else changes (R69, R106, R174). -/

namespace Sys2Proof.Machine

/-! ### Issue -/

/-- The issue of a command from a ready state: the sources decide (R142, R174). -/
theorem exec_of_ready {s : State} (i : Instr) (h : s.ready) : exec i s = .next
    (if (sourceRegs i).all s.isValid then s.putInFlight (encode i) else s.enterFault .unwrittenVreg (encode i)) := by
  obtain ⟨hidle, hfault⟩ := h
  simp [exec_of_idle i s hidle, State.issue, unlessFaulted, hfault]

theorem exec_issues {i : Instr} {s : State} (h : s.ready) (hv : ∀ k ∈ sourceRegs i, s.isValid k = true) :
    exec i s = .next (s.putInFlight (encode i)) := by
  rw [exec_of_ready i h, if_pos (List.all_eq_true.2 hv)]

theorem exec_faults {i : Instr} {s : State} (h : s.ready) (hv : ∃ k ∈ sourceRegs i, s.isValid k = false) :
    exec i s = .next (s.enterFault .unwrittenVreg (encode i)) := by
  rw [exec_of_ready i h, if_neg (by simpa using hv)]

theorem exec_next (i : Instr) (s : State) : ∃ t, exec i s = .next t := by
  rcases exec_cases i s with ⟨_, e⟩ | ⟨_, e⟩ | ⟨_, _, _, e⟩ <;> exact ⟨_, e⟩

theorem commandWrite_of_ok {w : Word} {i : Instr} (s : State) (h : decodeWord w = .ok i) : commandWrite w s = exec i s := by
  rw [commandWrite, h]

theorem commandWrite_of_error {w : Word} {e : DecodeError} (s : State) (h : decodeWord w = .error e) :
    commandWrite w s = .next (s.rejectWord e w) := by
  rw [commandWrite, h]

theorem rejectWord_illegalOpcode {s : State} (w : Word) (h : s.ready) :
    s.rejectWord .illegalOpcode w = s.enterFault .illegalOpcode w := by
  simp [State.rejectWord, unlessFaulted, h.2]

theorem rejectWord_reservedBits {s : State} (w : Word) (h : s.ready) :
    s.rejectWord .reservedBits w = s.enterFault .reservedBits w := by
  simp [State.rejectWord, unlessFaulted, h.2]

/-- A source that holds no value, by the fields of the word (R141). -/
theorem sourceRegs_unwritten_iff {f : CmdFields} {op : Opcode} (s : State) (h : opcodeOf f.op = some op) :
    (∃ k ∈ sourceRegs (assembleOperands op f), s.isValid k = false) ↔
      (f.op = 2#4 ∧ s.isValid f.s1.toFin = false)
        ∨ (f.op = 3#4 ∧ (s.isValid f.s1.toFin = false ∨ s.isValid f.s2.toFin = false))
        ∨ (f.op = 4#4 ∧ (s.isValid f.d.toFin = false ∨ s.isValid f.s1.toFin = false)) := by
  rw [opcodeOf_eq_some_iff] at h
  rw [h]
  cases op <;> simp [assembleOperands, sourceRegs, Opcode.field]

/-- A write to CMD from a ready state: the decoder makes the first two checks, in the order of R86, and the command's
issue the third (R142). -/
theorem commandWrite_of_ready {s : State} (w : Word) (h : s.ready) :
    let f := CmdFields.ofWord w
    commandWrite w s = .next (
      if f.op = 0#4 ∨ 5#4 ≤ f.op then s.enterFault .illegalOpcode w
      else if f.rsvHi ≠ 0#16 ∨ f.rsvLo ≠ 0#3 ∨ (f.op ≠ 3#4 ∧ f.s2 ≠ 0#3) then s.enterFault .reservedBits w
      else if (f.op = 2#4 ∧ s.isValid f.s1.toFin = false)
          ∨ (f.op = 3#4 ∧ (s.isValid f.s1.toFin = false ∨ s.isValid f.s2.toFin = false))
          ∨ (f.op = 4#4 ∧ (s.isValid f.d.toFin = false ∨ s.isValid f.s1.toFin = false)) then s.enterFault .unwrittenVreg w
      else s.putInFlight w) := by
  intro f
  rcases decodeWord_cases w with ⟨hop, hd⟩ | ⟨c, hop, hres, hd⟩ | ⟨c, hop, hres, hd⟩
  case inl =>
    rw [commandWrite_of_error s hd, if_pos ((opcodeOf_eq_none_iff f.op).1 hop), rejectWord_illegalOpcode w h]
  case inr.inl =>
    have hgood : ¬(f.op = 0#4 ∨ 5#4 ≤ f.op) := mt (opcodeOf_eq_none_iff f.op).2 (by simp [f, hop])
    rw [commandWrite_of_error s hd, if_neg hgood, if_pos ((reservedFieldSet_iff hop).1 hres), rejectWord_reservedBits w h]
  case inr.inr =>
    have hgood : ¬(f.op = 0#4 ∨ 5#4 ≤ f.op) := mt (opcodeOf_eq_none_iff f.op).2 (by simp [f, hop])
    rw [commandWrite_of_ok s hd, if_neg hgood, if_neg (mt (reservedFieldSet_iff hop).2 (by simp [hres]))]
    have hword : encode (assembleOperands c f) = w := encode_of_decodeWord hd
    by_cases hv : ∃ k ∈ sourceRegs (assembleOperands c f), s.isValid k = false
    · rw [if_pos ((sourceRegs_unwritten_iff s hop).1 hv), exec_faults h hv, hword]
    · rw [if_neg (mt (sourceRegs_unwritten_iff s hop).2 hv), exec_issues h (by simpa using hv), hword]

/-! ### What a completion leaves unchanged -/

/-- Nothing of the model's own and no fault field is part of a command's effect. -/
theorem completion_frame (i : Instr) (s : State) : (commandEffect i s).retire.busy = false
    ∧ sameFaults s (commandEffect i s).retire ∧ sameSurroundings s (commandEffect i s).retire :=
  ⟨rfl, sameFaults_completion i s, commandEffect_drawEpoch i s, commandEffect_script i s, commandEffect_turns i s,
    commandEffect_responses i s⟩

/-- A command that writes a register changes no other register and no byte of the frame buffer. -/
theorem writeV_retire_frame (s : State) (k : VRegNum) (X : BitPlaneVector) :
    (s.writeV k X).retire.isValid k = true ∧ (∀ j, j ≠ k → sameReg s (s.writeV k X).retire j)
      ∧ sameBuffer s (s.writeV k X).retire :=
  ⟨s.writeV_isValid_same k X, fun _ hj => ⟨s.writeV_isValid_other X hj, s.writeV_readV_other X hj⟩, fun _ => rfl⟩

/-- A frame write changes no byte outside the frame. -/
theorem State.writeFrame_bufByte_outside (s : State) (f : FrameNum) (y : ByteArray512) {x : Nat}
    (h : x < frameAddr f 0 ∨ frameAddr f 0 + 512 ≤ x) : (s.writeFrame f y).bufByte x = s.bufByte x := by
  have hout : ¬(frameAddr f 0 ≤ x ∧ x - frameAddr f 0 < (arrayBytes y).length) := by
    rw [arrayBytes_length]
    omega
  rw [State.writeFrame_eq, State.writeBuf_bufByte, dif_neg hout]

/-- The lane law for the sum of two vectors (R121). -/
theorem laneValue_addPlanes (A B : BitPlaneVector) (i : Fin 512) :
    laneValue (addPlanes A B) i = (laneValue A i + laneValue B i) % 256 := adderLaneLaw.1 A B i

/-- The completion of a command that writes the sum of two registers (R124, R125). -/
theorem sum_completes (s : State) (k : VRegNum) (A B : BitPlaneVector) :
    (s.writeV k (addPlanes A B)).retire.readV k = addPlanes A B
      ∧ (∀ i, laneValue ((s.writeV k (addPlanes A B)).retire.readV k) i = (laneValue A i + laneValue B i) % 256) := by
  have hread : (s.writeV k (addPlanes A B)).retire.readV k = addPlanes A B := s.writeV_readV_same k _
  exact ⟨hread, fun i => by rw [hread, laneValue_addPlanes]⟩

/-! ### The obligations -/

/-- Settles O29: issue, completion and the held write each answer next. -/
theorem everyCommandAnswersNext : Obligations.EveryCommandAnswersNext := exec_next

/-- Settles O18: ENCODE reads no register, and the others the registers that are valid. -/
theorem commandsIssue : Obligations.CommandsIssue := by
  refine fun s hs => ⟨fun vd fs => exec_issues hs ?_, fun fd vs hv => exec_issues hs ?_,
    fun vd va vb ha hb => exec_issues hs ?_, fun vd vb hd hb => exec_issues hs ?_⟩ <;> simp_all [sourceRegs]

/-- Settles O19: one source that is not valid is enough. -/
theorem unwrittenSourceFaults : Obligations.UnwrittenSourceFaults := by
  refine fun s hs => ⟨fun fd vs hv => exec_faults hs ?_, fun vd va vb hv => exec_faults hs ?_,
    fun vd vb hv => exec_faults hs ?_⟩ <;> simpa [sourceRegs] using hv

/-- Settles O20: the checks by the fields of the word are those by its bits. -/
theorem issueChecksInOrder : Obligations.IssueChecksInOrder := fun _ w hs => commandWrite_of_ready w hs

/-- Settles O21: the encoder's bits are the bits of the frame's bytes. -/
theorem encodeCompletes : Obligations.EncodeCompletes := by
  intro s vd fs hw
  obtain ⟨hvalid, hregs, hbuf⟩ := writeV_retire_frame s vd (encodePlanes (s.readFrame fs))
  refine ⟨_, exec_of_inFlight _ s hw, fun b i => ?_, hvalid, hregs, hbuf, completion_frame (.encode vd fs) s⟩
  calc ((s.writeV vd (encodePlanes (s.readFrame fs))).readV vd)[b].getLsbD i.val
      = (encodePlanes (s.readFrame fs))[b].getLsbD i.val := by rw [State.writeV_readV_same]
    _ = (s.bufByte (frameAddr fs i.val)).getLsbD b.val := encodePlanes_getLsbD _ b i

/-- Settles O22: the frame reads back as the decoder's array, whose bytes are the weighted sums. -/
theorem decodeCompletes : Obligations.DecodeCompletes := by
  intro s fd vs hw _
  refine ⟨_, exec_of_inFlight _ s hw, fun i => ?_, fun a ha => s.writeFrame_bufByte_outside fd _ ha,
    fun k => ⟨rfl, rfl⟩, completion_frame (.decode fd vs) s⟩
  have hread := congrFun (s.writeFrame_readFrame_same fd (decodePlanes (s.readV vs))) i
  exact (congrArg BitVec.toNat hread).trans (decodePlanes_toNat _ i)

/-- Settles O23: the sum is computed from the state before the write, so the fields may name one register twice. -/
theorem addCompletes : Obligations.AddCompletes := by
  intro s vd va vb hw _ _
  obtain ⟨hsum, hlanes⟩ := sum_completes s vd (s.readV va) (s.readV vb)
  obtain ⟨hvalid, hregs, hbuf⟩ := writeV_retire_frame s vd (addPlanes (s.readV va) (s.readV vb))
  exact ⟨_, exec_of_inFlight _ s hw, hsum, hlanes, hvalid, hregs, hbuf, completion_frame (.add vd va vb) s⟩

/-- Settles O24: the same with `V[vd]` as the first operand. -/
theorem addAssignCompletes : Obligations.AddAssignCompletes := by
  intro s vd vb hw _ _
  obtain ⟨hsum, hlanes⟩ := sum_completes s vd (s.readV vd) (s.readV vb)
  obtain ⟨hvalid, hregs, hbuf⟩ := writeV_retire_frame s vd (addPlanes (s.readV vd) (s.readV vb))
  exact ⟨_, exec_of_inFlight _ s hw, hsum, hlanes, hvalid, hregs, hbuf, completion_frame (.addAssign vd vb) s⟩

end Sys2Proof.Machine
end

section
/-! The bus below the frame buffer: the window (R50, R51), the STATUS word (R33), the reserved offsets (R52), and that a
read changes nothing (R60). -/

namespace Sys2Proof.Machine

/-! ### A host access that is well formed -/

theorem performAccess_of_read {a : HostAccess} (s : State) (ha : a.wellFormed = true) (hw : a.written = none) :
    performAccess a s = .next (s.respond (.data (busRead s a.offset a.width))) := by
  simp [performAccess, (refusal_eq_none_iff a).2 ha, hw]

theorem performAccess_of_write {a : HostAccess} {v : Word} (s : State) (ha : a.wellFormed = true)
    (hw : a.written = some v) : performAccess a s = busWrite (s.respond .written) a.offset a.width v := by
  simp [performAccess, (refusal_eq_none_iff a).2 ha, hw]

/-- A write below the frame buffer, to neither CMD nor CTRL, is ignored (R33, R34, R52). -/
theorem busWrite_ignored (s : State) {o : Nat} (n : Nat) (v : Word) (h0 : o ≠ 0x0) (hC : o ≠ 0xC) (h : o < 0x1000) :
    busWrite s o n v = .next s := by
  simp [busWrite, h0, hC, h]

theorem busRead_reserved (s : State) {o : Nat} (n : Nat) (hlo : 0x10 ≤ o) (hhi : o < 0x1000) : busRead s o n = 0#32 := by
  simp [busRead, hhi, show o ≠ 0x0 by omega, show o ≠ 0x4 by omega, show o ≠ 0x8 by omega, show o ≠ 0xC by omega]

theorem width_le_four (a : HostAccess) : a.width ≤ 4 := by
  cases a <;> simp [HostAccess.width]

/-- At a reserved offset every width is allowed, so being aligned is all that is asked (R52, R57, R58). -/
theorem wellFormed_of_reserved {a : HostAccess} (hlo : 0x10 ≤ a.offset) (hhi : a.offset < 0x1000) (h : a.aligned = true) :
    a.wellFormed = true := by
  have hwidth := width_le_four a
  simp only [HostAccess.wellFormed, HostAccess.inWindow, HostAccess.wideEnough, h, hlo, Bool.and_true, Bool.true_or,
    decide_true, decide_eq_true_eq]
  omega

/-- The accesses of 4 bytes at a multiple of 4 in the window are well formed, the control registers' too (R57). -/
theorem wellFormed_of_word {a : HostAccess} (hw : a.width = 4) (hin : a.offset < 0x2000) (h : a.offset % 4 = 0) :
    a.wellFormed = true := by
  simp only [HostAccess.wellFormed, HostAccess.inWindow, HostAccess.aligned, HostAccess.wideEnough, hw, h, beq_self_eq_true,
    Bool.or_true, Bool.and_true, decide_eq_true_eq]
  omega

theorem performAccess_wr32 (s : State) {o : Nat} (v : Word) (hin : o < 0x2000) (h : o % 4 = 0) :
    performAccess (.wr32 o v) s = busWrite (s.respond .written) o 4 v :=
  performAccess_of_write s (wellFormed_of_word rfl hin h) rfl

theorem performAccess_rd32 (s : State) {o : Nat} (hin : o < 0x2000) (h : o % 4 = 0) :
    performAccess (.rd32 o) s = .next (s.respond (.data (busRead s o 4))) :=
  performAccess_of_read s (wellFormed_of_word rfl hin h) rfl

/-! ### What a read returns does not depend on what the host has received -/

theorem bufBytes_respond (s : State) (r : BusResponse) (a n : Nat) : (s.respond r).bufBytes a n = s.bufBytes a n := by
  induction n generalizing a with
  | zero => rfl
  | succ n ih => simp [State.bufBytes, ih]

theorem status_respond (s : State) (r : BusResponse) : (s.respond r).status = s.status := rfl

theorem busRead_respond (s : State) (r : BusResponse) (o n : Nat) : busRead (s.respond r) o n = busRead s o n := by
  simp only [busRead, bufBytes_respond, status_respond, State.respond_faultCmd]

/-! ### The STATUS word -/

/-- The fields of STATUS from the lowest up (R33). -/
theorem status_getLsbD (s : State) (n : Nat) : s.status.getLsbD n =
    if n < 1 then (BitVec.ofBool s.busy).getLsbD n
    else if n - 1 < 1 then (BitVec.ofBool s.fault).getLsbD (n - 1)
    else if n - 2 < 2 then false
    else if n - 4 < 4 then s.cause.code.getLsbD (n - 4)
    else if n - 8 < 8 then s.validBits.getLsbD (n - 8)
    else false := by
  unfold State.status
  simp only [BitVec.getLsbD_append, Nat.sub_sub, BitVec.getLsbD_zero]

theorem status_busyBit (s : State) : s.status.getLsbD 0 = s.busy := by
  rw [status_getLsbD]
  simp

theorem status_faultBit (s : State) : s.status.getLsbD 1 = s.fault := by
  rw [status_getLsbD]
  simp

theorem status_validBit (s : State) (k : VRegNum) : s.status.getLsbD (8 + k.val) = s.isValid k := by
  have hbit : s.validBits.getLsbD k.val = s.isValid k := by
    rw [State.validBits, BitVec.getLsbD_ofFnLE, dif_pos k.isLt]
  rw [status_getLsbD, if_neg (by omega), if_neg (by omega), if_neg (by omega), if_neg (by omega), if_pos (by omega),
    Nat.add_sub_cancel_left, hbit]

theorem status_cause (s : State) : s.status.extractLsb' 4 4 = s.cause.code := by
  apply BitVec.eq_of_getLsbD_eq
  intro i hi
  rw [BitVec.getLsbD_extractLsb', status_getLsbD, if_neg (by omega), if_neg (by omega), if_neg (by omega),
    if_pos (by omega), Nat.add_sub_cancel_left, decide_eq_true hi, Bool.true_and]

theorem status_reserved_low (s : State) : s.status.extractLsb' 2 2 = 0#2 := by
  apply BitVec.eq_of_getLsbD_eq
  intro i hi
  rw [BitVec.getLsbD_extractLsb', status_getLsbD, if_neg (by omega), if_neg (by omega), if_pos (by omega), Bool.and_false,
    BitVec.getLsbD_zero]

theorem status_reserved_high (s : State) : s.status.extractLsb' 16 16 = 0#16 := by
  apply BitVec.eq_of_getLsbD_eq
  intro i hi
  rw [BitVec.getLsbD_extractLsb', status_getLsbD, if_neg (by omega), if_neg (by omega), if_neg (by omega),
    if_neg (by omega), if_neg (by omega), Bool.and_false, BitVec.getLsbD_zero]

/-! ### The obligations -/

/-- Settles O53, by the two bounds of the window. -/
theorem windowAtEveryBase : Obligations.WindowAtEveryBase := by
  intro base addr o
  unfold windowOffset
  split
  case isTrue h => simp only [Option.some.injEq]; omega
  case isFalse h => simp only [reduceCtorEq, false_iff]; omega

/-- Settles O48: each field stands at its place in the word, and CAUSE is 0 with no fault recorded. -/
theorem statusRegister : Obligations.StatusRegister := by
  refine fun s => ⟨status_busyBit s, status_faultBit s, status_reserved_low s, status_cause s, status_validBit s,
    status_reserved_high s, fun hs hf => ?_, performAccess_rd32 s (by decide) (by decide),
    fun v => performAccess_wr32 s v (by decide) (by decide)⟩
  rw [status_cause, hs.causeIffFault.1 hf, FaultCause.code]

/-- Settles O50: the data is a reading of the block, and the response list is no part of that. -/
theorem readsHaveNoSideEffect : Obligations.ReadsHaveNoSideEffect := by
  intro s a ha hw
  refine ⟨_, performAccess_of_read s ha hw, (performAccess_of_read (s.respond _) ha hw).trans ?_⟩
  rw [busRead_respond]
  simp [State.respond]

/-- Settles O49: no register has a reserved offset, and bit 0 of CTRL is the only one that acts. -/
theorem reservedOffsetsReadZero : Obligations.ReservedOffsetsReadZero := by
  refine ⟨fun s a hlo hhi ha => ?_,
    fun s => ⟨performAccess_rd32 s (by decide) (by decide), performAccess_rd32 s (by decide) (by decide)⟩,
    fun s => ⟨status_reserved_low s, status_reserved_high s⟩, fun s v hv => ?_⟩
  · have hwf := wellFormed_of_reserved hlo hhi ha
    cases hw : a.written with
    | none => rw [performAccess_of_read s hwf hw, busRead_reserved s _ hlo hhi, if_pos rfl, State.respond]
    | some v =>
      rw [performAccess_of_write s hwf hw, busWrite_ignored _ _ v (by omega) (by omega) hhi, if_neg (by simp),
        State.respond]
  · rw [performAccess_wr32 s v (by decide) (by decide), busWrite_ctrl, ctrlWrite_of_not_fclr _ hv, State.respond]

end Sys2Proof.Machine
end

section
/-! The frame buffer on the bus: byte lanes (R55), and the host lines that move a whole frame (R88). -/

namespace Sys2Proof

/-! ### Byte lanes -/

/-- Lane `j` of the number that bytes make up is byte `j` (R55). -/
theorem busValue_lane (bs : List Byte) {j : Nat} (hj : j < 4) : (busValue bs).extractLsb' (8 * j) 8 = bs.getD j 0#8 := by
  induction bs generalizing j with
  | nil => simp [busValue]
  | cons b bs ih =>
    apply BitVec.eq_of_getLsbD_eq
    intro i hi
    cases j with
    | zero =>
      simp [busValue, hi, show i < 32 by omega, -BitVec.getLsbD_eq_getElem]
    | succ j =>
      have hlane : ((busValue bs).extractLsb' (8 * j) 8).getLsbD i = (bs.getD j 0#8).getLsbD i := by rw [ih (by omega)]
      have hindex : 8 * (j + 1) + i - 8 = 8 * j + i := by omega
      have hhigh : b.getLsbD (8 * (j + 1) + i) = false := BitVec.getLsbD_of_ge _ _ (by omega)
      rw [List.getD_cons_succ, ← hlane]
      simp [busValue, hi, hindex, hhigh, show 8 * (j + 1) + i < 32 by omega, show ¬8 * (j + 1) + i < 8 by omega,
        -BitVec.getLsbD_eq_getElem]

/-- Byte `j` of a bus value is its lane `j` (R55). -/
theorem busBytes_getElem (n : Nat) (v : Word) (j : Nat) (h : j < (busBytes n v).length) :
    (busBytes n v)[j] = v.extractLsb' (8 * j) 8 := by
  induction n generalizing v j with
  | zero => exact absurd h (Nat.not_lt_zero j)
  | succ n ih =>
    cases j with
    | zero => exact BitVec.setWidth_eq_extractLsb' (show 8 ≤ 32 by decide)
    | succ j =>
      have hlane : (v >>> 8).extractLsb' (8 * j) 8 = v.extractLsb' (8 * (j + 1)) 8 := by
        apply BitVec.eq_of_getLsbD_eq
        intro i hi
        simp [hi, show 8 + (8 * j + i) = 8 * (j + 1) + i by omega, -BitVec.getLsbD_eq_getElem]
      simp [busBytes, ih, hlane]

/-- Four bytes side by side, the highest first, are the number they make up from the lowest. -/
theorem busValue_four (a b c d : Byte) : busValue [d, c, b, a] = a ++ b ++ c ++ d := by
  apply BitVec.eq_of_getLsbD_eq
  intro i hi
  simp only [busValue, BitVec.getLsbD_or, BitVec.getLsbD_setWidth, BitVec.getLsbD_shiftLeft, BitVec.getLsbD_append]
  interval_cases i <;> simp

end Sys2Proof

namespace Sys2Proof.Machine

/-! ### Host accesses to the frame buffer -/

theorem bufBytes_getElem (s : State) (a n j : Nat) (h : j < (s.bufBytes a n).length) :
    (s.bufBytes a n)[j] = s.bufByte (a + j) := by
  induction n generalizing a j with
  | zero => exact absurd h (Nat.not_lt_zero j)
  | succ n ih =>
    cases j with
    | zero => rfl
    | succ j => simp [State.bufBytes, ih, Nat.add_right_comm, Nat.add_assoc]

theorem busRead_buffer (s : State) {o : Nat} (n : Nat) (h : 0x1000 ≤ o) :
    busRead s o n = busValue (s.bufBytes (o - 0x1000) n) := by
  simp [busRead, show ¬o < 0x1000 by omega, show o ≠ 0x0 by omega, show o ≠ 0x4 by omega, show o ≠ 0x8 by omega,
    show o ≠ 0xC by omega]

theorem busWrite_buffer (s : State) {o : Nat} (n : Nat) (v : Word) (h : 0x1000 ≤ o) :
    busWrite s o n v = .next (s.writeBuf (o - 0x1000) (busBytes n v)) := by
  simp [busWrite, show ¬o < 0x1000 by omega, show o ≠ 0x0 by omega, show o ≠ 0xC by omega]

/-- A lane of a read is the byte at its offset (R55). -/
theorem busRead_lane (s : State) {o n j : Nat} (h : 0x1000 ≤ o) (hn : n ≤ 4) (hj : j < n) :
    (busRead s o n).extractLsb' (8 * j) 8 = s.bufByte (o - 0x1000 + j) := by
  have hlen : j < (s.bufBytes (o - 0x1000) n).length := by rwa [bufBytes_length]
  rw [busRead_buffer s n h, busValue_lane _ (by omega), List.getD_eq_getElem _ _ hlen, bufBytes_getElem]

/-- The lanes of a narrow read that no byte fills are 0 (R55). -/
theorem busRead_lane_above (s : State) {o n j : Nat} (h : 0x1000 ≤ o) (hn : n ≤ j) (hj : j < 4) :
    (busRead s o n).extractLsb' (8 * j) 8 = 0#8 := by
  have hlen : (s.bufBytes (o - 0x1000) n).length ≤ j := by rwa [bufBytes_length]
  rw [busRead_buffer s n h, busValue_lane _ hj, List.getD_eq_default _ _ hlen]

/-- A write stores its lanes (R55). -/
theorem writeBuf_busBytes_lane (s : State) (a : Nat) {n j : Nat} (v : Word) (hj : j < n) :
    (s.writeBuf a (busBytes n v)).bufByte (a + j) = v.extractLsb' (8 * j) 8 := by
  have hin : a ≤ a + j ∧ a + j - a < (busBytes n v).length := by
    rw [busBytes_length]
    omega
  rw [State.writeBuf_bufByte, dif_pos hin, busBytes_getElem, Nat.add_sub_cancel_left]

theorem writeBuf_busBytes_outside (s : State) {a n x : Nat} (v : Word) (h : x < a ∨ a + n ≤ x) :
    (s.writeBuf a (busBytes n v)).bufByte x = s.bufByte x := by
  have hout : ¬(a ≤ x ∧ x - a < (busBytes n v).length) := by
    rw [busBytes_length]
    omega
  rw [State.writeBuf_bufByte, dif_neg hout]

/-- The 32-bit read of a frame's word, its four bytes side by side (R55). -/
theorem busRead_frameWord (s : State) (f : FrameNum) (q : Nat) :
    let e := fun i => s.bufByte (512 * f.val + i)
    busRead s (0x1000 + 512 * f.val + 4 * q) 4 = e (4 * q + 3) ++ e (4 * q + 2) ++ e (4 * q + 1) ++ e (4 * q) := by
  intro e
  have haddr : 0x1000 + 512 * f.val + 4 * q - 0x1000 = 512 * f.val + 4 * q := by omega
  rw [busRead_buffer s 4 (by omega), haddr, ← busValue_four]
  simp only [State.bufBytes, e, Nat.add_assoc]

/-! ### Whole frames -/

theorem performAccesses_cons_of_next {a : HostAccess} {s t : State} (rest : List HostAccess)
    (h : performAccess a s = .next t) : performAccesses (a :: rest) s = performAccesses rest t := by
  rw [performAccesses, h]

theorem frameWordOffset_bounds (f : FrameNum) (q : Fin 128) :
    0x1000 ≤ frameWordOffset f q.val ∧ frameWordOffset f q.val < 0x2000 ∧ frameWordOffset f q.val % 4 = 0
      ∧ frameWordOffset f q.val - 0x1000 = 512 * f.val + 4 * q.val := by
  have hf := f.isLt
  have hq := q.isLt
  simp only [frameWordOffset]
  omega

/-- The word of a frame that holds an element (R88). -/
def wordOfElement (i : Fin 512) : Fin 128 := ⟨i.val / 4, by omega⟩

/-- Lane `j` of a word of an array is its element `j` from there (R88). -/
theorem arrayWord_lane (a : Vector Byte 512) (q : Fin 128) (j : Nat) (hj : j < 4) :
    (arrayWord a q).extractLsb' (8 * j) 8 = a[4 * q.val + j] := by
  rw [arrayWord, ← busValue_four, busValue_lane _ hj]
  interval_cases j <;> rfl

/-- What the writes of the words `qs` of the array `a` to frame `f` leave: those words in the frame, and nothing else
of the block changed. -/
def FilledBy (f : FrameNum) (a : Vector Byte 512) (qs : List (Fin 128)) (s t : State) : Prop :=
  (∀ i : Fin 512, t.bufByte (512 * f.val + i.val)
      = if wordOfElement i ∈ qs then a[i] else s.bufByte (512 * f.val + i.val))
    ∧ (∀ x, x < 512 * f.val ∨ 512 * f.val + 512 ≤ x → t.bufByte x = s.bufByte x)
    ∧ (∀ k, sameReg s t k) ∧ t.inFlight = s.inFlight ∧ sameFaults s t

theorem FilledBy.nil (f : FrameNum) (a : Vector Byte 512) (s : State) : FilledBy f a [] s s :=
  ⟨fun _ => by simp, fun _ _ => rfl, fun _ => ⟨rfl, rfl⟩, rfl, sameFaults_refl s⟩

/-- The words may come in any order, since all are of one array. -/
theorem FilledBy.cons {f : FrameNum} {a : Vector Byte 512} {q : Fin 128} {qs : List (Fin 128)} {s t u : State}
    (h : FilledBy f a [q] s t) (h' : FilledBy f a qs t u) : FilledBy f a (q :: qs) s u := by
  obtain ⟨hin, hout, hregs, hflight, hfault, hcause, hcmd, hlog⟩ := h
  obtain ⟨hin', hout', hregs', hflight', hfault', hcause', hcmd', hlog'⟩ := h'
  refine ⟨fun i => ?_, fun x hx => (hout' x hx).trans (hout x hx),
    fun k => ⟨(hregs' k).1.trans (hregs k).1, (hregs' k).2.trans (hregs k).2⟩, hflight'.trans hflight,
    hfault'.trans hfault, hcause'.trans hcause, hcmd'.trans hcmd, hlog'.trans hlog⟩
  rw [hin', hin]
  by_cases hq : wordOfElement i = q <;> by_cases hqs : wordOfElement i ∈ qs <;> simp [hq, hqs]

/-- One write of `fill` (R88). -/
theorem performAccess_fillWord (f : FrameNum) (a : Vector Byte 512) (q : Fin 128) (s : State) :
    ∃ t, performAccess (.wr32 (frameWordOffset f q.val) (arrayWord a q)) s = .next t ∧ FilledBy f a [q] s t := by
  obtain ⟨hlo, hhi, haligned, haddr⟩ := frameWordOffset_bounds f q
  have hq := q.isLt
  refine ⟨_, (performAccess_wr32 s _ hhi haligned).trans (busWrite_buffer _ 4 _ hlo), fun i => ?_, fun x hx => ?_,
    fun k => ⟨rfl, rfl⟩, rfl, sameFaults_refl s⟩ <;> rw [haddr]
  · by_cases hi : wordOfElement i = q
    · obtain ⟨j, hj, hij⟩ : ∃ j, j < 4 ∧ i.val = 4 * q.val + j :=
        ⟨i.val % 4, by omega, by rw [← hi]; exact (Nat.div_add_mod i.val 4).symm⟩
      rw [if_pos (by simp [hi]), hij, ← Nat.add_assoc, writeBuf_busBytes_lane _ _ _ hj, arrayWord_lane a q j hj]
      simp [hij]
    · have hne : i.val / 4 ≠ q.val := fun h => hi (Fin.ext h)
      rw [if_neg (by simpa using hi), writeBuf_busBytes_outside _ _ (by omega), State.respond_bufByte]
  · rw [writeBuf_busBytes_outside _ _ (by omega), State.respond_bufByte]

theorem performAccesses_fillWords (f : FrameNum) (a : Vector Byte 512) (qs : List (Fin 128)) (s : State) :
    ∃ t, performAccesses (qs.map fun q => .wr32 (frameWordOffset f q.val) (arrayWord a q)) s = .next t
      ∧ FilledBy f a qs s t := by
  induction qs generalizing s with
  | nil => exact ⟨s, rfl, FilledBy.nil f a s⟩
  | cons q qs ih =>
    obtain ⟨t, hfirst, hfilled⟩ := performAccess_fillWord f a q s
    obtain ⟨u, hrest, hfilled'⟩ := ih t
    exact ⟨u, (performAccesses_cons_of_next _ hfirst).trans hrest, hfilled.cons hfilled'⟩

/-- The words a `dump` of frame `f` receives (R88). -/
def frameWords (s : State) (f : FrameNum) (qs : List (Fin 128)) : List Word :=
  qs.map fun q => busRead s (frameWordOffset f q.val) 4

theorem frameWords_respond (s : State) (f : FrameNum) (r : BusResponse) (qs : List (Fin 128)) :
    frameWords (s.respond r) f qs = frameWords s f qs := by
  simp only [frameWords, busRead_respond]

theorem performAccesses_dumpWords (f : FrameNum) (qs : List (Fin 128)) (s : State) :
    performAccesses (qs.map fun q => .rd32 (frameWordOffset f q.val)) s
      = .next { s with responses := s.responses ++ (frameWords s f qs).map .data } := by
  induction qs generalizing s with
  | nil => simp [performAccesses, frameWords]
  | cons q qs ih =>
    obtain ⟨_, hhi, haligned, _⟩ := frameWordOffset_bounds f q
    rw [List.map_cons, performAccesses_cons_of_next _ (performAccess_rd32 s hhi haligned), ih, frameWords_respond]
    simp [State.respond, frameWords]

/-- Element `4q + j` of what the words make up is lane `j` of word `q` (R88). -/
theorem dumpArray_getElem? (words : List Word) (q : Nat) {j : Nat} (hj : j < 4) :
    (dumpArray words)[4 * q + j]? = words[q]?.map fun w => w.extractLsb' (8 * j) 8 := by
  induction words generalizing q with
  | nil => simp [dumpArray]
  | cons w words ih =>
    have hcons : dumpArray (w :: words) = busBytes 4 w ++ dumpArray words := by simp [dumpArray]
    have hlen : (busBytes 4 w).length = 4 := busBytes_length 4 w
    rw [hcons]
    cases q with
    | zero =>
      rw [List.getElem?_append_left (by omega), List.getElem?_eq_getElem (by omega), busBytes_getElem]
      simp
    | succ q =>
      rw [List.getElem?_append_right (by omega), hlen, show 4 * (q + 1) + j - 4 = 4 * q + j by omega, ih,
        List.getElem?_cons_succ]

/-- The words of a frame make up the array it holds. -/
theorem dumpArray_frameWords (s : State) (f : FrameNum) (i : Fin 512) :
    (dumpArray (frameWords s f (List.finRange 128)))[i.val]? = some (s.bufByte (512 * f.val + i.val)) := by
  obtain ⟨hlo, _, _, haddr⟩ := frameWordOffset_bounds f (wordOfElement i)
  have hi : 4 * (wordOfElement i).val + i.val % 4 = i.val := Nat.div_add_mod i.val 4
  have hword : (frameWords s f (List.finRange 128))[(wordOfElement i).val]?
      = some (busRead s (frameWordOffset f (wordOfElement i).val) 4) := by
    simp [frameWords]
  calc (dumpArray (frameWords s f (List.finRange 128)))[i.val]?
      = some ((busRead s (frameWordOffset f (wordOfElement i).val) 4).extractLsb' (8 * (i.val % 4)) 8) := by
        rw [← hi, dumpArray_getElem? _ _ (by omega), hword, hi, Option.map_some]
    _ = some (s.bufByte (512 * f.val + i.val)) := by
        rw [busRead_lane s hlo le_rfl (by omega), haddr, Nat.add_assoc, hi]

/-! ### The obligations -/

/-- Settles O46, by what the frame buffer holds after a write. -/
theorem bufferReadAfterWrite : Obligations.BufferReadAfterWrite := State.writeBuf_bufByte

/-- Settles O47, lane by lane, and for a frame's word by its four bytes. -/
theorem hostBytesLittleEndian : Obligations.HostBytesLittleEndian := by
  refine ⟨fun s o n ho hn => ⟨fun j hj => busRead_lane s ho (by omega) hj, fun j hj hj4 => busRead_lane_above s ho hj hj4,
    fun v => ⟨_, busWrite_buffer s n v ho, fun j hj => writeBuf_busBytes_lane s _ v hj,
      fun x hx => writeBuf_busBytes_outside s v hx⟩⟩, fun s f q _ => busRead_frameWord s f q⟩

/-- Settles O52: the 128 words of `fill` cover every element, and those of `dump` are their bytes. -/
theorem fillAndDumpMoveWholeFrames : Obligations.FillAndDumpMoveWholeFrames := by
  refine fun s f _ => ⟨fun a => ?_, frameWords s f (List.finRange 128), by simp [frameWords],
    performAccesses_dumpWords f _ s, dumpArray_frameWords s f⟩
  obtain ⟨t, ht, hin, hframe⟩ := performAccesses_fillWords f a (List.finRange 128) s
  exact ⟨t, ht, fun i => by rw [hin, if_pos (List.mem_finRange _)], hframe⟩

end Sys2Proof.Machine
end

section
/-! Who moves and what the move runs: the host's next access, the command in flight, or neither (R61, R62, R174 to R179),
and the accesses that no move performs (R58). -/

namespace Sys2Proof.Machine

/-! ### The host's move and the block's -/

/-- The state at which the host's next access takes effect: the access has left the script, the turn is used. -/
theorem popTurn_popAccess_eq {s : State} {a : HostAccess} {rest : List HostAccess} (h : s.script = a :: rest) :
    s.popTurn.popAccess = { s with script := rest, turns := s.turns.tail } := by
  simp [State.popTurn, State.popAccess, h]

/-- With nothing in flight and no reset the step is the host's next access (R62, R175). -/
theorem step_of_idle {s : State} {a : HostAccess} {rest : List HostAccess} (hb : s.busy = false)
    (hs : s.script = a :: rest) (hr : s.resetTurn = false) :
    step s = performAccess a { s with script := rest, turns := s.turns.tail } := by
  rw [← popTurn_popAccess_eq hs]
  rcases mover_cases hr with ⟨hm, _⟩ | ⟨_, hbusy⟩ | ⟨_, _, hdisabled⟩
  · exact step_of_mover_host hm hs
  · simp [hb] at hbusy
  · simp [script_nil_of_idle hb hdisabled] at hs

/-- At its turn the host makes an access that is not held, BUSY or not (R61). -/
theorem step_of_host_turn {s : State} {a : HostAccess} {rest : List HostAccess} (ht : s.turns.head? = some .host)
    (hs : s.script = a :: rest) (hfree : s.busy = true → HostAccess.heldWhileBusy a = false) :
    step s = performAccess a { s with script := rest, turns := s.turns.tail } := by
  have henabled : s.hostEnabled = true := by
    cases hb : s.busy with
    | false => simp [State.hostEnabled, State.hostHeld, hs, hb]
    | true => simp [State.hostEnabled, State.hostHeld, hs, hfree hb]
  rw [← popTurn_popAccess_eq hs]
  exact step_of_mover_host (by simp [State.mover, ht, henabled]) hs

/-- While busy the block moves where the turn is not the host's, or the host cannot move (R175, R179). -/
theorem step_of_block {s : State} (hb : s.busy = true) (hr : s.resetTurn = false)
    (h : s.turns.head? ≠ some .host ∨ s.hostEnabled = false) : step s = blockMove s.popTurn := by
  apply step_of_mover_block
  rcases ht : s.turns.head? with _ | ⟨_ | _ | m⟩
  · simp [State.mover, ht, hb]
  · simp [State.mover, ht, hb, show s.hostEnabled = false by simpa [ht] using h]
  · simp [State.mover, ht, hb]
  · simp [(resetTurn_iff s).2 ⟨m, ht⟩] at hr

/-- A held access keeps the host from moving (R61). -/
theorem hostEnabled_of_held {s : State} {a : HostAccess} {rest : List HostAccess} (hb : s.busy = true)
    (hs : s.script = a :: rest) (h : HostAccess.heldWhileBusy a = true) : s.hostEnabled = false := by
  simp [State.hostEnabled, State.hostHeld, hb, hs, h]

theorem busy_of_inFlight {s : State} {w : Word} (h : s.inFlight = some w) : s.busy = true := by
  simp [State.busy, h]

/-- The block's move runs the command in flight (R174). -/
theorem blockMove_of_decodes {s : State} {w : Word} {i : Instr} (hw : s.inFlight = some w) (hd : decodeWord w = .ok i) :
    blockMove s = exec i s := by
  simp [blockMove, hw, hd]

/-- A write of a command word to CMD runs the command (R32). -/
theorem performAccess_command {w : Word} {i : Instr} (s : State) (h : decodeWord w = .ok i) :
    performAccess (.wr32 0x0 w) s = exec i (s.respond .written) := by
  rw [performAccess_wr32 s w (by decide) (by decide)]
  exact commandWrite_of_ok _ h

/-! ### Completion -/

/-- In a busy state that meets the invariant the block's move is the completion of a command (R144, R175). -/
theorem blockMove_of_busy {s : State} (hs : s.Inv) (hb : s.busy = true) :
    ∃ i, blockMove s = .next (commandEffect i s).retire := by
  obtain ⟨w, hw⟩ := Option.isSome_iff_exists.1 hb
  obtain ⟨i, hd, _⟩ := hs.inFlightChecked w hw
  exact ⟨i, by rw [blockMove_of_decodes hw hd, exec_of_inFlight i s (by rw [hw, encode_of_decodeWord hd])]⟩

/-- While busy an access that is not held only answers the host (R60, R61). -/
theorem AccessEffect.of_busy {a : HostAccess} {s t : State} (h : AccessEffect a s t) (hb : s.busy = true) :
    ∃ r, t = s.respond r := by
  have hnot : s.inFlight ≠ none := by simpa [State.busy, Option.isSome_iff_ne_none] using hb
  cases h with
  | answered r => exact ⟨r, rfl⟩
  | issued hidle => exact absurd hidle hnot
  | faulted _ hidle => exact absurd hidle hnot
  | cleared hidle => exact absurd hidle hnot
  | stored hidle => exact absurd hidle hnot

/-! ### What the host's access answers -/

theorem commandWrite_next (w : Word) (s : State) : ∃ t, commandWrite w s = .next t := by
  cases hd : decodeWord w with
  | ok i => exact commandWrite_of_ok s hd ▸ exec_next i s
  | error e => exact ⟨_, commandWrite_of_error s hd⟩

theorem busWrite_next (s : State) (o n : Nat) (v : Word) : ∃ t, busWrite s o n v = .next t := by
  rcases busWrite_cases s o n v with ⟨_, e⟩ | ⟨_, e⟩ | ⟨_, _, _, e⟩ | ⟨_, e⟩
  · exact e ▸ commandWrite_next v s
  all_goals exact ⟨_, e⟩

/-- A well-formed access completes (R57, R58). -/
theorem performAccess_of_wellFormed {a : HostAccess} (s : State) (ha : a.wellFormed = true) :
    ∃ t, performAccess a s = .next t := by
  cases hw : a.written with
  | none => exact ⟨_, performAccess_of_read s ha hw⟩
  | some v => exact performAccess_of_write s ha hw ▸ busWrite_next _ _ _ v

theorem refusal_of_illFormed {a : HostAccess} (ha : a.wellFormed = false) : ∃ r, HostAccess.refusal a = some r := by
  rw [← Option.isSome_iff_exists, Option.isSome_iff_ne_none, ne_eq, refusal_eq_none_iff, ha]
  decide

/-- Every other access is refused (R58, R51, log 9). -/
theorem performAccess_of_illFormed {a : HostAccess} (s : State) (ha : a.wellFormed = false) :
    ∃ r, performAccess a s = .refused r := by
  obtain ⟨r, hr⟩ := refusal_of_illFormed ha
  exact ⟨r, by simp [performAccess, hr]⟩

theorem not_held_of_illFormed {a : HostAccess} (ha : a.wellFormed = false) : HostAccess.heldWhileBusy a = false := by
  obtain ⟨r, hr⟩ := refusal_of_illFormed ha
  exact not_held_of_refused hr

/-- A write to CMD while a fault is recorded is discarded (R145). -/
theorem commandWrite_of_faulted {s : State} (w : Word) (hidle : s.inFlight = none) (hf : s.fault = true) :
    commandWrite w s = .next s := by
  rcases commandWrite_cases w s hidle with ⟨_, e⟩ | ⟨hf', _⟩ | ⟨hf', _⟩ | ⟨hf', _⟩
  · exact e
  all_goals simp [hf] at hf'

/-! ### What happens to the host's accesses and responses -/

theorem AccessEffect.script_eq {a : HostAccess} {s t : State} (h : AccessEffect a s t) : t.script = s.script := by
  cases h <;> rfl

theorem blockMove_keeps_surroundings {s t : State} (h : blockMove s = .next t) : sameSurroundings s t := by
  rcases blockMove_cases s with ⟨_, e⟩ | ⟨_, i, _, _, e⟩ | ⟨_, _, _, _, e⟩ <;> rw [e] at h
  · obtain rfl := Host.Outcome.next.inj h
    exact ⟨rfl, rfl, rfl, rfl⟩
  · obtain rfl := Host.Outcome.next.inj h
    exact (completion_frame i s).2.2
  · cases h

/-- A reset leaves the host's accesses and responses, or ends the access it finds made and held (R171, log 8). -/
theorem platformReset_script_cases (m : Bool) (s : State) :
    ((platformReset m s).script = s.script ∧ (platformReset m s).responses = s.responses)
      ∨ ∃ a rest, s.script = a :: rest ∧ (platformReset m s).script = rest ∧ m = true ∧ s.busy = true
          ∧ HostAccess.heldWhileBusy a = true ∧ (platformReset m s).responses = s.responses ++ [.platformDefined] := by
  by_cases h : (m && s.hostHeld) = true
  case neg => simp [h]
  case pos =>
    obtain ⟨hm, hheld⟩ : m = true ∧ s.hostHeld = true := by simpa using h
    cases hs : s.script with
    | nil => simp [State.hostHeld, hs] at hheld
    | cons a rest =>
      obtain ⟨hb, ha⟩ : s.busy = true ∧ HostAccess.heldWhileBusy a = true := by simpa [State.hostHeld, hs] using hheld
      exact .inr ⟨a, rest, rfl, by simp [h, hs], hm, hb, ha, by simp [h]⟩

/-- A step leaves the host's accesses and responses, or takes off the first access: it performs that access, or is a
reset that ends it (R62, R171). -/
theorem step_script_cases {s t : State} (h : step s = .next t) :
    (t.script = s.script ∧ t.responses = s.responses)
      ∨ ∃ a rest, s.script = a :: rest ∧ t.script = rest
          ∧ ((s.resetTurn = false ∧ step s = performAccess a { s with script := rest, turns := s.turns.tail })
            ∨ (s.turns.head? = some (.reset true) ∧ s.busy = true ∧ HostAccess.heldWhileBusy a = true
                ∧ t.responses = s.responses ++ [.platformDefined])) := by
  rcases step_cases s with ⟨m, hm, e⟩ | ⟨_, _, e⟩ | ⟨_, _, _, e⟩ | ⟨a, rest, hr, hs, hheld, e⟩
  · obtain rfl := Host.Outcome.next.inj (e.symm.trans h)
    rcases platformReset_script_cases m s.popTurn with hsame | ⟨a, rest, hs, hscript, rfl, hb, ha, hresp⟩
    · exact .inl hsame
    · exact .inr ⟨a, rest, hs, hscript, .inr ⟨hm, hb, ha, hresp⟩⟩
  · obtain ⟨_, hscript, _, hresp⟩ := blockMove_keeps_surroundings (e.symm.trans h)
    exact .inl ⟨hscript, hresp⟩
  · obtain rfl := Host.Outcome.next.inj (e.symm.trans h)
    exact .inl ⟨rfl, rfl⟩
  · have hscript : t.script = s.script.tail := (performAccess_effect (s := s.popTurn.popAccess) hheld (e.symm.trans h)).script_eq
    exact .inr ⟨a, rest, hs, by rw [hscript, hs, List.tail_cons], .inl ⟨hr, by rw [e, popTurn_popAccess_eq hs]⟩⟩

/-! ### A run from a busy state -/

/-- From a busy state that meets the invariant a step ends the command, or the model refuses the host's program, or the
host's access has been answered and one turn used (R175, R179). -/
theorem step_of_busy {s : State} (hs : s.Inv) (hb : s.busy = true) :
    (∃ t, step s = .next t ∧ t.busy = false) ∨ (∃ r, step s = .refused r)
      ∨ ∃ t, step s = .next t ∧ t.busy = true ∧ t.turns = s.turns.tail := by
  rcases step_cases s with ⟨m, _, e⟩ | ⟨_, _, e⟩ | ⟨_, hidle, _, _⟩ | ⟨a, _, _, _, hheld, e⟩
  · exact .inl ⟨_, e, rfl⟩
  · obtain ⟨i, hi⟩ := blockMove_of_busy hs.popTurn hb
    exact .inl ⟨_, e.trans hi, rfl⟩
  · simp [hb] at hidle
  · cases ha : a.wellFormed with
    | false =>
      obtain ⟨r, hr⟩ := performAccess_of_illFormed s.popTurn.popAccess ha
      exact .inr (.inl ⟨r, e.trans hr⟩)
    | true =>
      obtain ⟨t, ht⟩ := performAccess_of_wellFormed s.popTurn.popAccess ha
      obtain ⟨r, rfl⟩ := (performAccess_effect (s := s.popTurn.popAccess) hheld ht).of_busy hb
      exact .inr (.inr ⟨_, e.trans ht, hb, rfl⟩)

/-- Every step that does not end the command uses a turn, and with no turn left the block moves. -/
theorem run_completes {s : State} (hs : s.Inv) (hb : s.busy = true) :
    ∃ n, n ≤ s.turns.length + 1 ∧
      ((∃ t, Host.Core.run Sys2Proof.core n s = .next t ∧ State.busy t = false)
        ∨ ∃ r, Host.Core.run Sys2Proof.core n s = .refused r) := by
  induction hturns : s.turns generalizing s with
  | nil =>
    obtain ⟨i, hi⟩ := blockMove_of_busy hs.popTurn hb
    have hstep : step s = .next (commandEffect i s.popTurn).retire :=
      (step_of_block hb (by simp [State.resetTurn, hturns]) (by simp [hturns])).trans hi
    exact ⟨1, le_rfl, .inl ⟨_, run_succ_of_next 0 hstep, rfl⟩⟩
  | cons turn turns ih =>
    rcases step_of_busy hs hb with ⟨t, e, ht⟩ | ⟨r, e⟩ | ⟨t, e, ht, htail⟩
    · exact ⟨1, by simp, .inl ⟨t, run_succ_of_next 0 e, ht⟩⟩
    · exact ⟨1, by simp, .inr ⟨r, run_succ_of_refused 0 e⟩⟩
    · obtain ⟨n, hn, hrun⟩ := ih (stepKeepsInvariant s t hs e) ht (by rw [htail, hturns, List.tail_cons])
      exact ⟨n + 1, by simpa using hn, by rwa [run_succ_of_next n e]⟩

/-! ### The obligations -/

/-- Settles O36: with nothing in flight the host moves, and its write runs the command. -/
theorem stepIssuesWrittenCommand : Obligations.StepIssuesWrittenCommand := by
  intro s w i rest hidle hs hr hd
  rw [step_of_idle ((State.busy_eq_false_iff s).2 hidle) hs hr, performAccess_command _ hd, State.respond]

/-- Settles O37: the block moves, and its move runs the command in flight. -/
theorem stepCompletesCommandInFlight : Obligations.StepCompletesCommandInFlight :=
  fun _ _ _ hw hd hr h => (step_of_block (busy_of_inFlight hw) hr h).trans (blockMove_of_decodes hw hd)

/-- Settles O38: the placed word is the host's next access, with nothing in flight and no turn. -/
theorem stepRunsPlacedWord : Obligations.StepRunsPlacedWord := by
  intro s w i hd
  have hscript : (s.withFetchWord 32 w.toNat).script = .wr32 0x0 w :: s.script := by
    rw [State.withFetchWord, ofNat_toNat_mod]
  rw [step_of_idle rfl hscript rfl, performAccess_command _ hd]
  rfl

/-- Settles O30: the word is not looked at, whether it is a command or not. -/
theorem commandsDiscardedWhileFaulted : Obligations.CommandsDiscardedWhileFaulted := by
  intro s w hidle hf
  refine ⟨commandWrite_of_faulted w hidle hf, fun rest hs hr => ?_⟩
  rw [step_of_idle ((State.busy_eq_false_iff s).2 hidle) hs hr, performAccess_wr32 _ w (by decide) (by decide)]
  exact commandWrite_of_faulted w hidle hf

/-- Settles O39: a held access keeps the host from moving, so the block does; any other is made at the host's turn. -/
theorem interlockHoldsAccesses : Obligations.InterlockHoldsAccesses := by
  intro s a rest ha hb hs hr
  have hheld := heldWhileBusy_eq ((refusal_eq_none_iff a).2 ha)
  refine ⟨fun h => ?_, fun h hlow ht => step_of_host_turn ht hs fun _ => ?_⟩
  · have htrue : HostAccess.heldWhileBusy a = true := by
      rw [hheld]
      rcases h with ⟨w, rfl | rfl⟩ | h
      · rfl
      · rfl
      · simp [h]
    exact step_of_block hb hr (.inr (hostEnabled_of_held hb hs htrue))
  · rw [hheld]
    rcases h with h | ⟨h0, hC⟩
    · simp [h, hlow]
    · simp [h0, hC, hlow]

/-- Settles O40: the block's move always ends the command, and the turns run out. -/
theorem completionAlwaysHappens : Obligations.CompletionAlwaysHappens := by
  intro s hs hb
  obtain ⟨i, hi⟩ := blockMove_of_busy hs hb
  exact ⟨⟨_, hi, rfl⟩, run_completes hs hb⟩

/-- Settles O41: the two reads are not held, and BUSY implies that no fault is recorded. -/
theorem readsDuringCommand : Obligations.ReadsDuringCommand := by
  intro s rest hs hb ht
  have hf : s.fault = false := hs.busyNoFault hb
  refine ⟨fun hscript => ⟨s.status, ?_, by rw [status_busyBit, hb], by rw [status_faultBit, hf], ?_, status_validBit s⟩,
    fun hscript => ?_⟩
  · rw [step_of_host_turn ht hscript fun _ => rfl, performAccess_rd32 _ (by decide) (by decide)]
    rfl
  · rw [status_cause, hs.causeIffFault.1 hf, FaultCause.code]
  · rw [step_of_host_turn ht hscript fun _ => rfl, performAccess_rd32 _ (by decide) (by decide)]
    rfl

/-- Settles O42: with nothing in flight the host moves, and the script changes only by its first access. -/
theorem hostOrderKept : Obligations.HostOrderKept := by
  refine ⟨fun s a rest => step_of_idle, fun s t h hne => ?_, fun s t h heq => ?_⟩
  · rcases step_script_cases h with ⟨hsame, _⟩ | htaken
    · exact absurd hsame hne
    · exact htaken
  · rcases step_script_cases h with ⟨_, hresp⟩ | ⟨a, rest, hs, hrest, _⟩
    · exact hresp
    · simp [heq, hs] at hrest

/-- Settles O51: an ill-formed access is refused when it is made, and nothing else takes it off the script. -/
theorem refusedAccessesAreIllFormed : Obligations.RefusedAccessesAreIllFormed := by
  refine ⟨fun s a _ => ?_, fun s a rest ha hs => ⟨fun h => ?_, fun t h => ?_⟩⟩
  · cases ha : a.wellFormed with
    | false =>
      obtain ⟨r, hr⟩ := performAccess_of_illFormed s ha
      simp [hr]
    | true =>
      obtain ⟨t, ht⟩ := performAccess_of_wellFormed s ha
      simp [ht]
  · rcases h with ht | ⟨hb, hr⟩
    · rw [step_of_host_turn ht hs fun _ => not_held_of_illFormed ha]
      exact performAccess_of_illFormed _ ha
    · rw [step_of_idle hb hs hr]
      exact performAccess_of_illFormed _ ha
  · rcases step_script_cases h with ⟨hsame, _⟩ | ⟨b, _, hs', _, ⟨_, e⟩ | ⟨_, _, hheld, _⟩⟩
    · exact hsame
    · obtain rfl : a = b := (List.cons.inj (hs.symm.trans hs')).1
      obtain ⟨r, hr⟩ := performAccess_of_illFormed _ ha
      cases (h.symm.trans e).trans hr
    · obtain rfl : a = b := (List.cons.inj (hs.symm.trans hs')).1
      simp [not_held_of_illFormed ha] at hheld

end Sys2Proof.Machine
end

section
/-! Who writes what: FAULTCMD and the ghost record (R34, D12), the vector registers (R26), and the bytes of the frame
buffer (R60, R69). -/

namespace Sys2Proof.Machine

/-! ### Registers through each operation -/

theorem sameReg_refl (s : State) (k : VRegNum) : sameReg s s k := ⟨rfl, rfl⟩

/-- No host access changes a register. -/
theorem AccessEffect.sameReg {a : HostAccess} {s t : State} (h : AccessEffect a s t) (k : VRegNum) : sameReg s t k := by
  cases h <;> exact ⟨rfl, rfl⟩

theorem State.writeV_reg_cases (s : State) (j k : VRegNum) (X : BitPlaneVector) :
    k = j ∨ sameReg s (s.writeV j X) k :=
  or_iff_not_imp_left.2 fun hj => ⟨s.writeV_isValid_other X hj, s.writeV_readV_other X hj⟩

/-- A command changes no register but its destination, which is valid afterwards (R26). -/
theorem commandEffect_reg (i : Instr) (s : State) (k : VRegNum) :
    sameReg s (commandEffect i s) k
      ∨ (commandEffect i s).isValid k = true
        ∧ ((∃ fs, i = .encode k fs) ∨ (∃ va vb, i = .add k va vb) ∨ ∃ vb, i = .addAssign k vb) := by
  cases i with
  | encode vd fs =>
    rcases s.writeV_reg_cases vd k (encodePlanes (s.readFrame fs)) with rfl | h
    · exact .inr ⟨s.writeV_isValid_same k _, .inl ⟨fs, rfl⟩⟩
    · exact .inl h
  | decode fd vs => exact .inl ⟨rfl, rfl⟩
  | add vd va vb =>
    rcases s.writeV_reg_cases vd k (addPlanes (s.readV va) (s.readV vb)) with rfl | h
    · exact .inr ⟨s.writeV_isValid_same k _, .inr (.inl ⟨va, vb, rfl⟩)⟩
    · exact .inl h
  | addAssign vd vb =>
    rcases s.writeV_reg_cases vd k (addPlanes (s.readV vd) (s.readV vb)) with rfl | h
    · exact .inr ⟨s.writeV_isValid_same k _, .inr (.inr ⟨vb, rfl⟩)⟩
    · exact .inl h

/-- What a step does to a register: nothing, a reset, or the completion of a command with it as destination. -/
theorem step_reg_cases {s t : State} (k : VRegNum) (h : step s = .next t) :
    sameReg s t k ∨ s.resetTurn = true
      ∨ ∃ w i, s.inFlight = some w ∧ t.inFlight = none ∧ decodeWord w = .ok i ∧ t.isValid k = true
          ∧ ((∃ fs, i = .encode k fs) ∨ (∃ va vb, i = .add k va vb) ∨ ∃ vb, i = .addAssign k vb) := by
  rcases step_effect h with ⟨m, hm, rfl⟩ | ⟨w, i, hw, hd, rfl⟩ | rfl | ⟨_, _, _, heffect⟩
  · exact .inr (.inl ((resetTurn_iff s).2 ⟨m, hm⟩))
  · rcases commandEffect_reg i s.popTurn k with hsame | ⟨hvalid, hdest⟩
    · exact .inl hsame
    · exact .inr (.inr ⟨w, i, hw, rfl, hd, hvalid, hdest⟩)
  · exact .inl (sameReg_refl s k)
  · exact .inl (heffect.sameReg k)

/-! ### Bytes of the frame buffer through each operation -/

/-- A byte that a host access changes is one that it writes, with nothing in flight (R60, R61). -/
theorem AccessEffect.bufByte_changed {a : HostAccess} {s t : State} {x : Nat} (h : AccessEffect a s t)
    (hx : t.bufByte x ≠ s.bufByte x) : s.busy = false ∧ (∃ v, a.written = some v)
      ∧ a.offset ≤ 0x1000 + x ∧ 0x1000 + x < a.offset + a.width := by
  cases h with
  | answered r => exact absurd rfl hx
  | issued => exact absurd rfl hx
  | faulted => exact absurd rfl hx
  | cleared => exact absurd rfl hx
  | @stored v hidle hw ho _ =>
    have hin : ¬(x < a.offset - 0x1000 ∨ a.offset - 0x1000 + a.width ≤ x) :=
      fun hout => hx (writeBuf_busBytes_outside (s.respond .written) v hout)
    exact ⟨(s.busy_eq_false_iff).2 hidle, ⟨v, hw⟩, by omega, by omega⟩

/-- A byte that a command changes is one of the frame that a DECODE names (R69). -/
theorem commandEffect_bufByte_changed {i : Instr} {s : State} {x : Nat} (hx : (commandEffect i s).bufByte x ≠ s.bufByte x) :
    ∃ fd vs, i = .decode fd vs ∧ 512 * fd.val ≤ x ∧ x < 512 * fd.val + 512 := by
  cases i with
  | encode => exact absurd rfl hx
  | add => exact absurd rfl hx
  | addAssign => exact absurd rfl hx
  | decode fd vs =>
    have hin : ¬(x < frameAddr fd 0 ∨ frameAddr fd 0 + 512 ≤ x) := fun hout => hx (s.writeFrame_bufByte_outside fd _ hout)
    simp only [frameAddr] at hin
    exact ⟨fd, vs, rfl, by omega, by omega⟩

/-! ### The obligations -/

/-- Settles O33: of what a step can do to the fault fields, entry and reset alone write FAULTCMD. -/
theorem faultCmdWrittenByFaultEntry : Obligations.FaultCmdWrittenByFaultEntry := by
  intro s t h hne
  rcases step_faults h with ⟨_, _, hcmd, _⟩ | ⟨_, hf, hlog⟩ | ⟨_, _, hcmd, _⟩ | ⟨m, hr, rfl⟩
  · exact absurd hcmd hne
  · exact .inl ⟨hf, hlog⟩
  · exact absurd hcmd hne
  · exact .inr ⟨hr, rfl⟩

/-- Settles O34: the word in flight is a command, whose effect names no fault field. -/
theorem completionRaisesNoFault : Obligations.CompletionRaisesNoFault := by
  intro s hs hb
  obtain ⟨i, hi⟩ := blockMove_of_busy hs hb
  exact ⟨_, hi, rfl, sameFaults_completion i s⟩

/-- Settles O35: a fault entry adds to the record, and nothing else touches it. -/
theorem faultRecordOnlyGrows : Obligations.FaultRecordOnlyGrows := by
  intro s t h
  rcases step_faults h with ⟨_, _, _, hlog⟩ | ⟨_, _, hlog⟩ | ⟨_, _, _, hlog⟩ | ⟨m, _, rfl⟩
  · exact .inl hlog
  · exact .inr ⟨_, hlog⟩
  · exact .inl hlog
  · exact .inl rfl

/-- Settles O43: a completion that changes a register leaves it valid, so it clears no VALID bit. -/
theorem registersChangeOnlyAtCompletion : Obligations.RegistersChangeOnlyAtCompletion := by
  intro s t k h
  rcases step_reg_cases k h with hsame | hr | ⟨w, i, hw, hidle, hd, hvalid, hdest⟩
  · exact ⟨fun hv hv' => absurd (hsame.1.symm.trans hv') (by simp [hv]), fun hne => absurd hsame hne⟩
  · exact ⟨fun _ _ => hr, fun _ => .inl hr⟩
  · refine ⟨fun _ hv' => by simp [hvalid] at hv', fun _ => .inr ⟨w, hw, hidle, hvalid, ?_⟩⟩
    rcases hdest with ⟨fs, rfl⟩ | ⟨va, vb, rfl⟩ | ⟨vb, rfl⟩
    · exact .inl ⟨fs, hd⟩
    · exact .inr (.inl ⟨va, vb, hd⟩)
    · exact .inr (.inr ⟨vb, hd⟩)

/-- Settles O44, by the bytes that a command and that a host access can change. -/
theorem bufferChangesOnlyByDecodeOrHost : Obligations.BufferChangesOnlyByDecodeOrHost := by
  intro s t x h hx
  rcases step_effect h with ⟨m, hm, rfl⟩ | ⟨w, i, hw, hd, rfl⟩ | rfl | ⟨a, rest, hs, heffect⟩
  · exact .inl ((resetTurn_iff s).2 ⟨m, hm⟩)
  · obtain ⟨fd, vs, rfl, hlo, hhi⟩ := commandEffect_bufByte_changed (s := s.popTurn) hx
    exact .inr (.inl ⟨w, fd, vs, hw, rfl, hd, hlo, hhi⟩)
  · exact absurd rfl hx
  · obtain ⟨hb, ⟨v, hv⟩, hlo, hhi⟩ := heffect.bufByte_changed hx
    have hscript : t.script = s.script.tail := heffect.script_eq
    exact .inr (.inr ⟨a, rest, v, hs, by rw [hscript, hs, List.tail_cons], hv, hb, hlo, hhi⟩)

end Sys2Proof.Machine
end
